-- ==== Sys2Proof/Word.lean ====
section
/-! DEFINITION. The words of the block: 32-bit interface words, bytes, and the binary32 bit patterns its registers hold (spec/00_scope.md R8, R9). -/

namespace Sys2Proof

/-- A 32-bit word of the command interface (CMD or ARG) or of the OUT stream (R3, R32). -/
abbrev Word := BitVec 32

/-- One byte of a host's memory, where a host stores OUT words (R33). -/
abbrev Byte := BitVec 8

/-- The bit pattern of an IEEE 754 binary32 number (R9); its arithmetic is in Machine/Float.lean. -/
abbrev F32 := BitVec 32

/-- The four binary32 operations the rules use (R9). -/
inductive FOp where
  | add
  | sub
  | mul
  | div
deriving DecidableEq, Repr

end Sys2Proof
end

