-- ==== Sys2Proof/Syntax.lean ====
section
/-! DEFINITION. The command pair of the control interface and the commands it decodes to: one constructor per mnemonic of spec/opcode_table.json (spec/30_encoding.md R40 to R46). -/

namespace Sys2Proof

/-- One command as the host sends it: the command word, then the argument word (R3, R40). -/
structure Command where
  cmd : Word
  arg : Word
deriving DecidableEq, Repr

/-- The commands (R44, R45), each with the operands the decoder of R46 hands it. -/
inductive Instr where
  /-- NOP, format N (R86). -/
  | nop
  /-- INIT PLAT, API, format I (R85). -/
  | init (plat api : BitVec 8)
  /-- RENDER FRAMES, NOTE, BEND with SHAPE_LFO in ARG, format R (R81). -/
  | render (frames : BitVec 12) (note bend : BitVec 8) (shapeLfo : Word)
  /-- NOTE_ON NOTE, BEND, format P (R73). -/
  | noteOn (note bend : BitVec 8)
  /-- NOTE_OFF NOTE, BEND, format P (R74). -/
  | noteOff (note bend : BitVec 8)
  /-- SET_PARAM with INDEX 0, format S (R69). -/
  | setRandvowel (value : BitVec 16)
  /-- SET_PARAM with INDEX 1, format S (R70). -/
  | setShape (value : BitVec 16)
  /-- SET_PARAM with INDEX 2, format S (R71). -/
  | setResonance (value : BitVec 16)
  /-- SET_PARAM with INDEX 3 to 255, format S (R72): the seven SETP_IGNORED rows of the table. -/
  | setpIgnored (index : BitVec 8) (value : BitVec 16)
  /-- OP 0x6 to 0xF, format N (R87): the two RESERVED rows of the table. The low 28 bits are carried so that RSVD op, imm28 (R48) is one instruction. -/
  | reserved (op : BitVec 4) (imm28 : BitVec 28)
deriving DecidableEq, Repr

end Sys2Proof
end

