-- ==== Sys2Proof/WellFormed.lean ====
section
/-! DEFINITION. Which terms of Instr a command word can stand for: the field widths are in the types, so the checks left are the INDEX of SETP_IGNORED and the OP of RESERVED (spec/30_encoding.md R44, R45). -/

namespace Sys2Proof

/-- SETP_IGNORED has an INDEX outside 0, 1, 2 (R45) and RESERVED an OP of 0x6 or above (R44); every other field value is legal (R47). -/
def Instr.wellFormed : Instr → Bool
  | .nop => true
  | .init _ _ => true
  | .render _ _ _ _ => true
  | .noteOn _ _ => true
  | .noteOff _ _ => true
  | .setRandvowel _ => true
  | .setShape _ => true
  | .setResonance _ => true
  | .setpIgnored index _ => decide (3 ≤ index.toNat)
  | .reserved op _ => decide (6 ≤ op.toNat)

/-- The check as a proposition. -/
abbrev Instr.WellFormed (i : Instr) : Prop := i.wellFormed = true

end Sys2Proof
end

