-- ==== Sys2Proof/Decode.lean ====
section
/-! DEFINITION. The total decoder of spec/30_encoding.md R46 and the encoder of R48. -/

namespace Sys2Proof

/-- OP = CMD[31:28] (R41). -/
def opField (w : Word) : BitVec 4 := w.extractLsb' 28 4

/-- CMD[15:8]: NOTE of formats R and P, PLAT of format I (R41, R42). -/
def highByteField (w : Word) : BitVec 8 := w.extractLsb' 8 8

/-- CMD[7:0]: BEND of formats R and P, API of format I (R41, R42). -/
def lowByteField (w : Word) : BitVec 8 := w.extractLsb' 0 8

/-- FRAMES = CMD[27:16] (R41, R42). -/
def framesField (w : Word) : BitVec 12 := w.extractLsb' 16 12

/-- INDEX = CMD[23:16] (R41, R42). -/
def indexField (w : Word) : BitVec 8 := w.extractLsb' 16 8

/-- VALUE = CMD[15:0] (R41, R42). -/
def valueField (w : Word) : BitVec 16 := w.extractLsb' 0 16

/-- CMD[27:0], the low bits of format N (R41, R48). -/
def imm28Field (w : Word) : BitVec 28 := w.extractLsb' 0 28

/-- SET_PARAM is sub-decoded by INDEX (R45). -/
def decodeSetParam (w : Word) : Instr :=
  match (indexField w).toNat with
  | 0 => .setRandvowel (valueField w)
  | 1 => .setShape (valueField w)
  | 2 => .setResonance (valueField w)
  | _ => .setpIgnored (indexField w) (valueField w)

/-- `decode` of R46: every pair of words is exactly one command; no pair is refused (R47). -/
def decode (c : Command) : Instr :=
  match (opField c.cmd).toNat with
  | 0 => .nop
  | 1 => .init (highByteField c.cmd) (lowByteField c.cmd)
  | 2 => .render (framesField c.cmd) (highByteField c.cmd) (lowByteField c.cmd) c.arg
  | 3 => .noteOn (highByteField c.cmd) (lowByteField c.cmd)
  | 4 => .noteOff (highByteField c.cmd) (lowByteField c.cmd)
  | 5 => decodeSetParam c.cmd
  | _ => .reserved (opField c.cmd) (imm28Field c.cmd)

/-- A command word of format I, P or (with FRAMES in the middle) R: OP, twelve bits, two bytes (R41). -/
def packNote (op : BitVec 4) (mid : BitVec 12) (hi lo : BitVec 8) : Word :=
  op.setWidth 32 <<< 28 ||| mid.setWidth 32 <<< 16 ||| hi.setWidth 32 <<< 8 ||| lo.setWidth 32

/-- A command word of format S: OP = 5, four ignored bits (0 when assembled), INDEX, VALUE (R41, R48). -/
def packParam (index : BitVec 8) (value : BitVec 16) : Word :=
  0x50000000#32 ||| index.setWidth 32 <<< 16 ||| value.setWidth 32

/-- A command word of format N with its low 28 bits (R41, R48). -/
def packReserved (op : BitVec 4) (imm28 : BitVec 28) : Word :=
  op.setWidth 32 <<< 28 ||| imm28.setWidth 32

/-- The pair each command assembles to (R48, R49): ignored bits and unused ARGs are 0. -/
def encode : Instr → Command
  | .nop => ⟨0#32, 0#32⟩
  | .init plat api => ⟨packNote 1#4 0#12 plat api, 0#32⟩
  | .render frames note bend lfo => ⟨packNote 2#4 frames note bend, lfo⟩
  | .noteOn note bend => ⟨packNote 3#4 0#12 note bend, 0#32⟩
  | .noteOff note bend => ⟨packNote 4#4 0#12 note bend, 0#32⟩
  | .setRandvowel value => ⟨packParam 0#8 value, 0#32⟩
  | .setShape value => ⟨packParam 1#8 value, 0#32⟩
  | .setResonance value => ⟨packParam 2#8 value, 0#32⟩
  | .setpIgnored index value => ⟨packParam index value, 0#32⟩
  | .reserved op imm28 => ⟨packReserved op imm28, 0#32⟩

/-- The pair whose bits are w in the numbering of the opcode table: CMD is bits 31:0, ARG bits 63:32, and bits above nbits are 0. -/
def commandOfTableWord (nbits w : Nat) : Command :=
  ⟨BitVec.ofNat 32 (w % 2 ^ nbits), BitVec.ofNat 32 (w % 2 ^ nbits / 2 ^ 32)⟩

/-- What the decoder reads from an instruction whose bits are w in the numbering of the opcode table. The decoder is total (R46), so it never answers none. -/
def decodeTableWord (nbits w : Nat) : Option Instr :=
  some (decode (commandOfTableWord nbits w))

end Sys2Proof
end

