-- ==== Sys2Proof/Config.lean ====
section
/-! DEFINITION. The configuration of the block: the OPEN parameters of spec/00_scope.md R6 and the free inputs (draws) of R11, as a record, and the uninterpreted constants the machine's own configuration is made of. -/

namespace Sys2Proof

/-- The values OUT_BYTE_ORDER may take (R33). The spec names only its default, little-endian; that big-endian is the one other value is a DESIGN CHOICE (log entry 24). -/
inductive ByteOrder where
  | little
  | big
deriving DecidableEq, Repr, Inhabited

/-- The five coefficient registers of one filter (R15). -/
structure Coefs where
  b0 : F32
  b1 : F32
  b2 : F32
  a1 : F32
  a2 : F32
deriving DecidableEq, Repr, Inhabited

/-- A configuration: the OPEN parameters of R6 and the streams the draws come from. The machine runs on `Config.chip`; tests run the same operations on the spec's test configuration T1. -/
structure Config where
  /-- PRESET (R31): row is the vowel, column the formant. -/
  preset : Fin 5 → Fin 2 → F32
  /-- BLSAW(phase, note) (R63). -/
  blsaw : F32 → BitVec 8 → F32
  /-- PITCH_INC(note, bend) (R65). -/
  pitchInc : BitVec 8 → BitVec 8 → F32
  /-- SIN (R6). -/
  sin : F32 → F32
  /-- COS (R6). -/
  cos : F32 → F32
  /-- OUT_BYTE_ORDER (R33). -/
  outByteOrder : ByteOrder
  /-- The noise draws (R64): the n-th value `draw_noise()` gives. -/
  noise : Nat → F32
  /-- The vowel draws (R73): the n-th value `draw_vowel()` gives. -/
  vowel : Nat → Fin 5
  /-- The draws for SETCOEF outside its precondition (R56, I1): any five binary32 words. -/
  coefDraw : Nat → Coefs

/-! The uninterpreted constants. None has a body, so a theorem holds whatever they are. -/

/-- FS, the sample rate (R6): it enters only through PRESET and PITCH_INC. Log entry 7. -/
opaque Config.fs : F32

/-- Codes of the preset table: code m stands for the binary32 word m + 1, so that the codes are exactly the binary32 numbers strictly between 0 and π (R7; log entries 7 and 9). -/
opaque Config.presetCode : F32 → Fin 5 → Fin 2 → Fin 0x40490FDA

/-- Codes of BLSAW on its domain: a sign and a magnitude word of at most 0x3F800000, exactly the binary32 numbers in [-1, 1] (R7; log entry 7). -/
opaque Config.blsawCode : F32 → BitVec 8 → Bool × Fin 0x3F800001

/-- BLSAW outside its domain (a phase that is not in [0, 1)): the rules give no value there. Free value, log entry 8. -/
opaque Config.blsawElsewhere : F32 → BitVec 8 → F32

/-- Codes of PITCH_INC: codes below 0x3F800000 are the words themselves, the last code is -0; exactly the binary32 numbers in [0, 1) (R7; log entries 7 and 14). -/
opaque Config.pitchCode : F32 → BitVec 8 → BitVec 8 → Fin 0x3F800001

/-- SIN: any function of words (R6, D5), since R7 sets no condition on it. Log entry 22. -/
opaque Config.sinOpen : F32 → F32

/-- COS: any function of words (R6, D5), since R7 sets no condition on it. Log entry 22. -/
opaque Config.cosOpen : F32 → F32

/-- OUT_BYTE_ORDER (R33, D32). -/
opaque Config.byteOrderOpen : ByteOrder

/-- Codes of the noise draws, as those of BLSAW: a binary32 in [-1, 1] (R64). Free value, log entry 2. -/
opaque Config.noiseCode : Nat → Bool × Fin 0x3F800001

/-- The vowel draws (R73). Free value, log entry 3. -/
opaque Config.vowelOpen : Nat → Fin 5

/-- The draws of SETCOEF outside its precondition (R56). Free value, log entry 4. -/
opaque Config.coefOpen : Nat → Coefs

/-- Sign and payload of the NaN an operation gives: IEEE 754 does not fix its word. Free value, log entry 5. -/
opaque Config.nanCode : FOp → F32 → F32 → Bool × Fin 0x7FFFFF

/-- The integer part of a NaN or an infinity: R10 gives none. Free value, log entry 6. -/
opaque Config.integerOpen : F32 → Int

end Sys2Proof
end

