-- ==== Sys2Proof/Machine/Float.lean ====
section
/-! DEFINITION. The binary32 arithmetic of spec/00_scope.md R9 and R10: IEEE 754, round to nearest with ties to even, subnormals kept, no flags. Every finite binary32 is an integer number of units of 2^-149, and all results are computed exactly in those units and rounded once. -/

namespace Sys2Proof.Machine

/-- v. A proof's definitional check stops here while the word x is not a numeral, instead of unfolding the arithmetic behind it. -/
def whenKnown {α : Type} (x : F32) (v : α) : α :=
  match x.toNat with
  | 0 => v
  | _ + 1 => v

/-- The sign bit. -/
def fsign (x : F32) : Bool := x.msb

/-- The exponent and fraction fields as one number. -/
def fmag (x : F32) : Nat := x.toNat % 0x80000000

def isNaN (x : F32) : Bool := decide (0x7F800000 < fmag x)

def isInf (x : F32) : Bool := decide (fmag x = 0x7F800000)

def isFinite (x : F32) : Bool := decide (fmag x < 0x7F800000)

/-- The word with sign s and exponent and fraction fields m. -/
def pack (s : Bool) (m : Nat) : F32 :=
  BitVec.ofNat 32 (if s then 0x80000000 + m else m)

/-- |x| of a finite x, in units of 2^-149. -/
def units (x : F32) : Nat :=
  if fmag x / 2 ^ 23 = 0 then fmag x
  else (fmag x % 2 ^ 23 + 2 ^ 23) * 2 ^ (fmag x / 2 ^ 23 - 1)

/-- x of a finite x, in units of 2^-149. -/
def sunits (x : F32) : Int :=
  if fsign x then -(units x : Int) else units x

/-- A key that orders the numbers (all words but NaNs) as their values: -0 and +0 have the same key. -/
def fkey (x : F32) : Int :=
  if fsign x then -(fmag x : Int) else fmag x

/-- x ≤ y as numbers; false when one is a NaN. -/
def fle (x y : F32) : Bool :=
  whenKnown x <| whenKnown y <| !isNaN x && !isNaN y && decide (fkey x ≤ fkey y)

/-- x < y as numbers; false when one is a NaN. -/
def flt (x y : F32) : Bool :=
  whenKnown x <| whenKnown y <| !isNaN x && !isNaN y && decide (fkey x < fkey y)

/-- The magnitude word of the binary32 nearest n / d units, ties to even; the word of infinity when the rounded value is above the largest finite one (R9). -/
def roundMag (n d : Nat) : Nat :=
  let k := Nat.log2 (n / d) - 23
  let dd := d * 2 ^ k
  let m := n / dd
  let r := n % dd
  let up := if dd < 2 * r ∨ (2 * r = dd ∧ m % 2 = 1) then 1 else 0
  min (k * 2 ^ 23 + m + up) 0x7F800000

/-- `f32(r)` of R9 for r = ± n / d units. -/
def roundSigned (s : Bool) (n d : Nat) : F32 := pack s (roundMag n d)

/-- `f32(n)` for an integer n (R9). -/
def f32OfInt : Int → F32
  | .ofNat 0 => 0x00000000#32
  | .ofNat (n + 1) => roundSigned false ((n + 1) * 2 ^ 149) 1
  | .negSucc n => roundSigned true ((n + 1) * 2 ^ 149) 1

/-- The NaN an operation gives: some NaN word, not said which (log entry 5). -/
def nanResult (op : FOp) (x y : F32) : F32 :=
  pack (Config.nanCode op x y).1 (0x7F800001 + (Config.nanCode op x y).2.val)

/-- Sum of x and y, reported as operation op on x0 and y0 where it gives a NaN. -/
def sumAs (op : FOp) (x0 y0 x y : F32) : F32 :=
  if isNaN x || isNaN y then nanResult op x0 y0
  else if isInf x then (if isInf y && (fsign x != fsign y) then nanResult op x0 y0 else x)
  else if isInf y then y
  else
    let z := sunits x + sunits y
    if z = 0 then pack (fsign x && fsign y) 0
    else roundSigned (decide (z < 0)) z.natAbs 1

/-- `-x`: flips the sign bit, exactly (R9). -/
def fneg (x : F32) : F32 := x ^^^ 0x80000000#32

/-- `x + y` (R9). -/
def fadd (x y : F32) : F32 :=
  whenKnown x <| whenKnown y <| sumAs .add x y x y

/-- `x - y` (R9). -/
def fsub (x y : F32) : F32 :=
  whenKnown x <| whenKnown y <| sumAs .sub x y x (fneg y)

/-- `x × y` (R9). -/
def fmul (x y : F32) : F32 :=
  whenKnown x <| whenKnown y <|
  let s := fsign x != fsign y
  if isNaN x || isNaN y then nanResult .mul x y
  else if isInf x || isInf y then
    (if fmag x = 0 || fmag y = 0 then nanResult .mul x y else pack s 0x7F800000)
  else roundSigned s (units x * units y) (2 ^ 149)

/-- `x ÷ y` (R9). -/
def fdiv (x y : F32) : F32 :=
  whenKnown x <| whenKnown y <|
  let s := fsign x != fsign y
  if isNaN x || isNaN y then nanResult .div x y
  else if isInf x then (if isInf y then nanResult .div x y else pack s 0x7F800000)
  else if isInf y then pack s 0
  else if fmag y = 0 then (if fmag x = 0 then nanResult .div x y else pack s 0x7F800000)
  else roundSigned s (units x * 2 ^ 149) (units y)

/-- `trunc(x)` of R10 as an integer; free for a NaN or an infinity (log entry 6). -/
def truncInt (x : F32) : Int :=
  whenKnown x <| if isFinite x then Int.tdiv (sunits x) (2 ^ 149) else Config.integerOpen x

/-- `floor(x)` of R10 as an integer; free for a NaN or an infinity (log entry 6). -/
def floorInt (x : F32) : Int :=
  whenKnown x <| if isFinite x then Int.fdiv (sunits x) (2 ^ 149) else Config.integerOpen x

/-- The binary32 1.0. -/
def F_ONE : F32 := 0x3F800000#32

/-- The binary32 -1.0. -/
def F_NEG_ONE : F32 := 0xBF800000#32

/-- The binary32 +0.0. -/
def F_ZERO : F32 := 0x00000000#32

/-- `clamp1(x)` of R10: NaN passes through. -/
def clamp1 (x : F32) : F32 :=
  if flt F_ONE x then F_ONE
  else if flt x F_NEG_ONE then F_NEG_ONE
  else x

end Sys2Proof.Machine
end

