-- ==== Sys2Proof/Machine/Params.lean ====
section
/-! DEFINITION. The named constants of spec/00_scope.md R6, the admitted configurations of R7, and the machine's own configuration made of the uninterpreted constants of Config.lean. -/

namespace Sys2Proof.Machine

/-- VOWELS (R6). -/
def VOWELS : Nat := 5

/-- FORMANTS (R6). -/
def FORMANTS : Nat := 2

/-- PARAM_MAX (R6). -/
def PARAM_MAX : Nat := 1023

/-- SQRT2, the binary32 that stands for Q_MIN (R6). -/
def SQRT2 : F32 := 0x3FB504F3#32

/-- Q_MAX = 16 (R6). -/
def Q_MAX : F32 := 0x41800000#32

/-- FIVE_SQRT2, the denominator GAIN_DEN (R6). -/
def FIVE_SQRT2 : F32 := 0x40E24630#32

/-- C_CLIP = f32(0.3) (R6). -/
def C_CLIP : F32 := 0x3E99999A#32

/-- K_RESCALE = 1 ÷ (1 - C_CLIP) (R6). -/
def K_RESCALE : F32 := 0x3FB6DB6E#32

/-- NOISE_MIX = f32(0.05) (R6). -/
def NOISE_MIX : F32 := 0x3D4CCCCD#32

/-- SAW_MIX = f32(0.95) (R6). -/
def SAW_MIX : F32 := 0x3F733333#32

/-- QSPAN = 16 - SQRT2 (R6). -/
def QSPAN : F32 := 0x41695F62#32

/-- The literal 0.5. -/
def F_HALF : F32 := 0x3F000000#32

/-- The literal 2. -/
def F_TWO : F32 := 0x40000000#32

/-- The exact negation of 2. -/
def F_NEG_TWO : F32 := 0xC0000000#32

/-- The literal 4 (VOWELS - 1 in R70). -/
def F_FOUR : F32 := 0x40800000#32

/-- The largest binary32 below π, named as such by vector BQ-5 (spec/95_test_vectors.md). DEDUCED, log entry 13. -/
def BELOW_PI : F32 := 0x40490FDA#32

/-- A finite binary32 strictly between 0 and π (R7). -/
def inOpenPi (w : F32) : Bool := flt F_ZERO w && fle w BELOW_PI

/-- A finite binary32 in [-1, 1] (R7, R64). -/
def inUnit (x : F32) : Bool := fle F_NEG_ONE x && fle x F_ONE

/-- A finite binary32 above 0 and at most 1, as the reference sine of an angle in (0, π) is. No condition on a configuration (log entry 22). -/
def inSineRange (x : F32) : Bool := flt F_ZERO x && fle x F_ONE

/-- A finite binary32 in [0, 1) (R7, R17). -/
def isPhase (x : F32) : Bool := fle F_ZERO x && flt x F_ONE

end Sys2Proof.Machine

namespace Sys2Proof

/-- An admitted configuration: the three conditions of R7, and the range of the noise draws (R64). R7 sets no condition on SIN and COS (log entry 22). The range of the vowel draws (R73) is in their type. -/
structure Config.Admitted (c : Config) : Prop where
  preset : ∀ k i, Machine.inOpenPi (c.preset k i) = true
  blsaw : ∀ p note, Machine.isPhase p = true → Machine.inUnit (c.blsaw p note) = true
  pitchInc : ∀ note bend, Machine.isPhase (c.pitchInc note bend) = true
  noise : ∀ n, Machine.inUnit (c.noise n) = true

/-- The preset entry of a code (R7): code m is the word m + 1. -/
def Config.presetWord (m : Fin 0x40490FDA) : F32 := BitVec.ofNat 32 (m.val + 1)

/-- The number in [-1, 1] of a code. -/
def Config.unitWord (m : Bool × Fin 0x3F800001) : F32 := Machine.pack m.1 m.2.val

/-- The number in [0, 1) of a code: the last code is -0. -/
def Config.phaseWord (m : Fin 0x3F800001) : F32 :=
  if m.val = 0x3F800000 then 0x80000000#32 else BitVec.ofNat 32 m.val

/-- The configuration the machine runs on: any admitted one (R7, R103), since the constants it is made of are uninterpreted. -/
def Config.chip : Config where
  preset k i := Config.presetWord (Config.presetCode Config.fs k i)
  blsaw p note :=
    if Machine.isPhase p then Config.unitWord (Config.blsawCode p note)
    else Config.blsawElsewhere p note
  pitchInc note bend := Config.phaseWord (Config.pitchCode Config.fs note bend)
  sin := Config.sinOpen
  cos := Config.cosOpen
  outByteOrder := Config.byteOrderOpen
  noise n := Config.unitWord (Config.noiseCode n)
  vowel := Config.vowelOpen
  coefDraw := Config.coefOpen

end Sys2Proof
end

