-- ==== Sys2Proof/Machine/Coefficients.lean ====
section
/-! DEFINITION. The functions of the rules that touch no state: the preset ROM's read (spec/20_memory.md R31), the coefficient formulas of SETCOEF (spec/40_biquad.md R51), and the gain as a function of Q (spec/43_controller.md R71). -/

namespace Sys2Proof.Machine

/-- `RomRead(k, i)`: the ROM has no out-of-range read, its indices being Fin 5 and Fin 2 (R31). -/
def romRead (c : Config) (k : Fin 5) (i : Fin 2) : F32 := c.preset k i

/-- The precondition of SETCOEF: 0 < w < π and q > 0 (R51). -/
def setCoefPre (w q : F32) : Bool := inOpenPi w && flt F_ZERO q

/-- The five coefficients of R51, in the pseudocode's order of operations. -/
def bandpass (c : Config) (w q : F32) : Coefs :=
  let sn := c.sin w
  let cs := c.cos w
  let alpha := fdiv sn (fmul F_TWO q)
  let a0 := fadd F_ONE alpha
  { b0 := fdiv alpha a0
    b1 := F_ZERO
    b2 := fneg (fdiv alpha a0)
    a1 := fdiv (fmul F_NEG_TWO cs) a0
    a2 := fdiv (fsub F_ONE alpha) a0 }

/-- G for a Q: 1 + ((Q - SQRT2) ÷ FIVE_SQRT2) (R71). -/
def gainOf (q : F32) : F32 := fadd F_ONE (fdiv (fsub q SQRT2) FIVE_SQRT2)

end Sys2Proof.Machine
end

