-- ==== Sys2Proof/Machine/State.lean ====
section
/-! DEFINITION. The state of the block (spec/10_state.md R15 to R21, spec/20_memory.md R30 and R32), the command sequence still to run (R23), the draw counters of the model, and the reset state (R29). -/

namespace Sys2Proof.Machine

/-- One filter instance BQ[j]: its five coefficient registers (R15) and its two delay registers (R16). -/
structure Biquad where
  coefs : Coefs
  z1 : F32
  z2 : F32
deriving DecidableEq, Repr

/-- The state between commands (R25). -/
structure State where
  /-- BQ[0] (R15, R16). -/
  bq0 : Biquad
  /-- BQ[1] (R15, R16). -/
  bq1 : Biquad
  /-- PHASE (R17). -/
  phase : F32
  /-- F[0] (R18). -/
  f0 : F32
  /-- F[1] (R18). -/
  f1 : F32
  /-- Q (R19). -/
  q : F32
  /-- G (R20). -/
  g : F32
  /-- RAND_FLAG (R21). -/
  randFlag : Bool
  /-- The OUT stream, oldest word first (R32). -/
  out : List Word
  /-- The commands of the host's sequence that have not run yet, the next one first (R23; log entry 1). -/
  cmds : List Command
  /-- How many noise draws have been taken. The model's own counter, log entry 2. -/
  noiseCount : Nat
  /-- How many vowel draws have been taken. The model's own counter, log entry 3. -/
  vowelCount : Nat
  /-- How many coefficient draws have been taken. The model's own counter, log entry 4. -/
  coefCount : Nat
deriving DecidableEq, Repr

/-- Why the machine would stop with a fault. The block raises no exception and no command can fault (R88), so there is no reason to list: nobody raises one. -/
inductive Fault where
deriving DecidableEq, Repr

/-- Why the model would give an instruction no meaning. -/
inductive Refusal where
  /-- Raised by an arm of exec whose instruction has no meaning yet; safe. No arm raises it: every command has its meaning. -/
  | notModelled (mnemonic : String)
deriving DecidableEq, Repr

/-- The state right after power-on reset (R29, R101): F is vowel "a", Q and G those of minimum resonance, the coefficients those of RETUNE, the delay registers, PHASE and RAND_FLAG zero, OUT empty. No command has arrived (R102); the draw counters start at 0 (log entries 2, 3 and 4). -/
def State.reset : State where
  bq0 := ⟨bandpass Config.chip (romRead Config.chip 0 0) SQRT2, F_ZERO, F_ZERO⟩
  bq1 := ⟨bandpass Config.chip (romRead Config.chip 0 1) SQRT2, F_ZERO, F_ZERO⟩
  phase := F_ZERO
  f0 := romRead Config.chip 0 0
  f1 := romRead Config.chip 0 1
  q := SQRT2
  g := F_ONE
  randFlag := false
  out := []
  cmds := []
  noiseCount := 0
  vowelCount := 0
  coefCount := 0

end Sys2Proof.Machine
end

