-- ==== Sys2Proof/Machine/Flags.lean ====
section
/-! DEFINITION. The block has no status flags, condition codes or floating-point flags (spec/10_state.md R24). Its one flag is the control flag RAND_FLAG, computed here (spec/43_controller.md R69). -/

namespace Sys2Proof.Machine

/-- RAND_FLAG of a VALUE: any nonzero VALUE sets it (R69). -/
def randFlagOf (value : BitVec 16) : Bool := decide (value ≠ 0#16)

end Sys2Proof.Machine
end

