-- ==== Sys2Proof/Machine/Operands.lean ====
section
/-! DEFINITION. The operand forms of the parameter commands: PVAL (spec/43_controller.md R68), the point SET_SHAPE takes between two preset rows (R70), and the resonance of a VALUE (R71). -/

namespace Sys2Proof.Machine

/-- PVAL(VALUE) (R68). -/
def pval (value : BitVec 16) : F32 :=
  fdiv (f32OfInt (min value.toNat PARAM_MAX : Nat)) (f32OfInt PARAM_MAX)

/-- idf: the position of a VALUE in vowel-index space (R70). -/
def shapeIdf (value : BitVec 16) : F32 := fmul (pval value) F_FOUR

/-- idx: the preset row below, clamped to VOWELS - 2 = 3 (R70). -/
def shapeIdx (value : BitVec 16) : Fin 4 :=
  ⟨min (floorInt (shapeIdf value)).toNat 3, by omega⟩

/-- off: the weight of the preset row above (R70). -/
def shapeOff (value : BitVec 16) : F32 :=
  fsub (shapeIdf value) (f32OfInt (shapeIdx value).val)

/-- w0: the weight of the preset row below (R70). -/
def shapeW0 (value : BitVec 16) : F32 := fsub F_ONE (shapeOff value)

/-- F[i] of SET_SHAPE: (w0 × RomRead(idx, i)) + (off × RomRead(idx + 1, i)) (R70). -/
def shapeFreq (c : Config) (value : BitVec 16) (i : Fin 2) : F32 :=
  fadd (fmul (shapeW0 value) (romRead c (shapeIdx value).castSucc i))
    (fmul (shapeOff value) (romRead c (shapeIdx value).succ i))

/-- Q of SET_RESONANCE: SQRT2 + (r × QSPAN) (R71). -/
def resonanceQ (value : BitVec 16) : F32 := fadd SQRT2 (fmul (pval value) QSPAN)

end Sys2Proof.Machine
end

