-- ==== Sys2Proof/Machine/Stages.lean ====
section
/-! DEFINITION. The stages of one frame that read and write no register by themselves: the oscillator's output (spec/42_oscillator.md R62, R65, R66), one filter's PROCESS (spec/40_biquad.md R52), gain, clip and conversion to Q31 (spec/44_pipeline.md R77 to R79). -/

namespace Sys2Proof.Machine

/-- OSC_NEXT(note, n) at a phase (R62). -/
def oscNext (c : Config) (phase : F32) (note : BitVec 8) (n : F32) : F32 :=
  fadd (fmul SAW_MIX (c.blsaw phase note)) (fmul NOISE_MIX n)

/-- OSC_INC(note, bend) (R65). -/
def oscInc (c : Config) (note bend : BitVec 8) : F32 := c.pitchInc note bend

/-- The phase OSC_ADVANCE(inc) leaves: p - trunc(p) for p = PHASE + inc (R66). -/
def nextPhase (phase inc : F32) : F32 :=
  let p := fadd phase inc
  fsub p (f32OfInt (truncInt p))

/-- y of PROCESS(x) (R52). -/
def processOut (b : Biquad) (x : F32) : F32 := fadd (fmul b.coefs.b0 x) b.z1

/-- The filter after PROCESS(x): the new delays are computed from the old ones (R52). -/
def processNext (b : Biquad) (x : F32) : Biquad :=
  let y := processOut b x
  { b with
    z1 := fadd (fsub (fmul b.coefs.b1 x) (fmul b.coefs.a1 y)) b.z2
    z2 := fsub (fmul b.coefs.b2 x) (fmul b.coefs.a2 y) }

/-- The mean of the two filter outputs (R58). -/
def bankMean (y0 y1 : F32) : F32 := fmul (fadd y0 y1) F_HALF

/-- GAIN_COMP(m) under gain g (R77). -/
def gainComp (g m : F32) : F32 := fmul m g

/-- CLIP(c) (R78). -/
def clip (x : F32) : F32 :=
  let u := clamp1 x
  let u3 := fmul (fmul u u) u
  let s := fsub u (fmul C_CLIP u3)
  fmul s K_RESCALE

/-- q of TO_Q31(o): 0 for a NaN, else trunc(v × (2^31 - 1)) of the clamped v, the product exact (R79). -/
def q31Int (o : F32) : Int :=
  whenKnown o <| if isNaN o then 0
  else Int.tdiv (sunits (clamp1 o) * 2147483647) (2 ^ 149)

/-- TO_Q31(o): q as a two's-complement word (R79). -/
def toQ31 (o : F32) : Word := BitVec.ofInt 32 (q31Int o)

end Sys2Proof.Machine
end

