-- ==== Sys2Proof/Machine/Ops.lean ====
section
/-! DEFINITION. The named operations over the state: taking the next command, the draws, SETCOEF and RETUNE (spec/40_biquad.md R51, R56; spec/41_iir_bank.md R59), BANK_PROCESS (R58), OSC_ADVANCE (spec/42_oscillator.md R66), StreamWrite (spec/20_memory.md R32) and FRAME (spec/44_pipeline.md R80). The block has no exceptions to take and none to return from (spec/60_exceptions.md R88). -/

namespace Sys2Proof.Machine

/-- The next command of the host's sequence, decoded, and the state with that command taken; none while no command has arrived (R3, R23, R102). -/
def fetch (s : State) : Option (Instr × State) :=
  match s.cmds with
  | [] => none
  | c :: rest => some (decode c, { s with cmds := rest })

/-- BQ[j].SETCOEF(w, q): the formulas of R51 within their precondition; outside it five free words (R56). The delay registers are kept (R55). The number counts the coefficient draws taken. -/
def setCoef (c : Config) (w q : F32) (n : Nat) (b : Biquad) : Biquad × Nat :=
  if setCoefPre w q then ({ b with coefs := bandpass c w q }, n)
  else ({ b with coefs := c.coefDraw n }, n + 1)

/-- RETUNE (R59). -/
def retune (c : Config) (s : State) : State :=
  let r0 := setCoef c s.f0 s.q s.coefCount s.bq0
  let r1 := setCoef c s.f1 s.q r0.2 s.bq1
  { s with bq0 := r0.1, bq1 := r1.1, coefCount := r1.2 }

/-- F[0], F[1] <- w0, w1, then RETUNE: how SET_SHAPE and NOTE_ON end (R67, R70, R73). -/
def setFreqs (c : Config) (w0 w1 : F32) (s : State) : State :=
  retune c { s with f0 := w0, f1 := w1 }

/-- `draw_noise()` takes the next noise draw (R64). -/
def takeNoise (s : State) : State := { s with noiseCount := s.noiseCount + 1 }

/-- `draw_vowel()` takes the next vowel draw (R73). -/
def takeVowel (s : State) : State := { s with vowelCount := s.vowelCount + 1 }

/-- The bank's output for x: BANK_PROCESS(x)'s m (R58). -/
def bankOut (s : State) (x : F32) : F32 := bankMean (processOut s.bq0 x) (processOut s.bq1 x)

/-- What BANK_PROCESS(x) writes: the delay registers of both filters (R58). -/
def bankNext (x : F32) (s : State) : State :=
  { s with bq0 := processNext s.bq0 x, bq1 := processNext s.bq1 x }

/-- OSC_ADVANCE(inc) (R66). -/
def oscAdvance (inc : F32) (s : State) : State := { s with phase := nextPhase s.phase inc }

/-- `StreamWrite(w)`: append w at the end of OUT (R32). -/
def streamWrite (w : Word) (s : State) : State := { s with out := s.out ++ [w] }

/-- FRAME(note, inc), in the order of R80. -/
def frame (c : Config) (note : BitVec 8) (inc : F32) (s : State) : State :=
  let n := c.noise s.noiseCount
  let s := takeNoise s
  let e := oscNext c s.phase note n
  let m := bankOut s e
  let s := bankNext e s
  let o := clip (gainComp s.g m)
  let s := oscAdvance inc s
  streamWrite (toQ31 o) s

/-- `repeat n times: FRAME(note, inc)` (R81). -/
def frames (c : Config) (note : BitVec 8) (inc : F32) : Nat → State → State
  | 0, s => s
  | n + 1, s => frames c note inc n (frame c note inc s)

/-- The byte of w at offset k (0 to 3) of its four bytes in a host's memory (R33). -/
def byteAt (order : ByteOrder) (w : Word) (k : Nat) : Byte :=
  match order with
  | .little => w.extractLsb' (8 * k) 8
  | .big => w.extractLsb' (8 * (3 - k)) 8

/-- A buffer of OUT words as a host stores it in byte memory: word n at byte offset 4n (R33). -/
def hostBytes (order : ByteOrder) (ws : List Word) : List Byte :=
  ws.flatMap fun w => [byteAt order w 0, byteAt order w 1, byteAt order w 2, byteAt order w 3]

/-- OUT as the bytes of a host buffer in the configured OUT_BYTE_ORDER (R33). -/
def outBytes (c : Config) (s : State) : List Byte := hostBytes c.outByteOrder s.out

end Sys2Proof.Machine
end

