-- ==== Sys2Proof/Machine/Controller.lean ====
section
/-! DEFINITION. The control unit's commands of spec/43_controller.md: the SET_PARAM commands and the note commands. -/

namespace Sys2Proof.Machine

/-- The state SET_RANDVOWEL leaves (R69): no retune (R67). -/
def randVowelState (value : BitVec 16) (s : State) : State :=
  { s with randFlag := randFlagOf value }

/-- SET_RANDVOWEL (R69). -/
def execSetRandvowel (value : BitVec 16) (s : State) : Host.Outcome State Fault Refusal :=
  .next (randVowelState value s)

/-- The state SET_SHAPE leaves (R70). -/
def shapeState (c : Config) (value : BitVec 16) (s : State) : State :=
  setFreqs c (shapeFreq c value 0) (shapeFreq c value 1) s

/-- SET_SHAPE (R70). -/
def execSetShape (value : BitVec 16) (s : State) : Host.Outcome State Fault Refusal :=
  .next (shapeState Config.chip value s)

/-- The state SET_RESONANCE leaves (R71). -/
def resonanceState (c : Config) (value : BitVec 16) (s : State) : State :=
  retune c { s with q := resonanceQ value, g := gainOf (resonanceQ value) }

/-- SET_RESONANCE (R71). -/
def execSetResonance (value : BitVec 16) (s : State) : Host.Outcome State Fault Refusal :=
  .next (resonanceState Config.chip value s)

/-- SETP_IGNORED: no state changes (R72). -/
def execSetpIgnored (_index : BitVec 8) (_value : BitVec 16) (s : State) : Host.Outcome State Fault Refusal :=
  .next s

/-- The state NOTE_ON leaves (R73): with RAND_FLAG set it draws a vowel and takes that preset; else nothing changes and no draw is taken. -/
def noteOnState (c : Config) (s : State) : State :=
  if s.randFlag then
    let k := c.vowel s.vowelCount
    setFreqs c (romRead c k 0) (romRead c k 1) (takeVowel s)
  else s

/-- NOTE_ON NOTE, BEND: both operands are read and ignored (R73). -/
def execNoteOn (_note _bend : BitVec 8) (s : State) : Host.Outcome State Fault Refusal :=
  .next (noteOnState Config.chip s)

/-- NOTE_OFF NOTE, BEND: no state changes (R74). -/
def execNoteOff (_note _bend : BitVec 8) (s : State) : Host.Outcome State Fault Refusal :=
  .next s

end Sys2Proof.Machine
end

