-- ==== Sys2Proof/Machine/Lifecycle.lean ====
section
/-! DEFINITION. The lifecycle and no-op commands of spec/45_lifecycle.md: INIT, NOP and RESERVED. -/

namespace Sys2Proof.Machine

/-- The state INIT leaves (R85). The commands still to run and the draws already taken are not the block's registers and stay. -/
def initState (c : Config) (s : State) : State :=
  let zeroDelays (b : Biquad) : Biquad := { b with z1 := F_ZERO, z2 := F_ZERO }
  let s := retune c
    { s with
      randFlag := false
      f0 := romRead c 0 0
      f1 := romRead c 0 1
      q := SQRT2
      g := F_ONE
      bq0 := zeroDelays s.bq0
      bq1 := zeroDelays s.bq1 }
  { s with phase := F_ZERO, out := [] }

/-- INIT PLAT, API: both operands are read and ignored (R85). -/
def execInit (_plat _api : BitVec 8) (s : State) : Host.Outcome State Fault Refusal :=
  .next (initState Config.chip s)

/-- NOP: no state changes (R86). -/
def execNop (s : State) : Host.Outcome State Fault Refusal := .next s

/-- RESERVED: executed as a no-op (R87). -/
def execReserved (_op : BitVec 4) (_imm28 : BitVec 28) (s : State) : Host.Outcome State Fault Refusal :=
  .next s

end Sys2Proof.Machine
end

