-- ==== Sys2Proof/Machine/Pipeline.lean ====
section
/-! DEFINITION. The RENDER command of spec/44_pipeline.md. -/

namespace Sys2Proof.Machine

/-- The state RENDER leaves (R81): the increment is computed once, then FRAMES frames run. -/
def renderState (c : Config) (n : BitVec 12) (note bend : BitVec 8) (s : State) : State :=
  frames c note (oscInc c note bend) n.toNat s

/-- RENDER FRAMES, NOTE, BEND: SHAPE_LFO is read and has no effect (R81, R82). -/
def execRender (n : BitVec 12) (note bend : BitVec 8) (_shapeLfo : Word) (s : State) :
    Host.Outcome State Fault Refusal :=
  .next (renderState Config.chip n note bend s)

end Sys2Proof.Machine
end

