-- ==== Sys2Proof/Machine/Dispatch.lean ====
section
/-! DEFINITION. One arm per command of Instr, each a direct call of its meaning. -/

namespace Sys2Proof.Machine

def exec (i : Instr) (s : State) : Host.Outcome State Fault Refusal :=
  match i with
  | .nop => Sys2Proof.Machine.execNop s
  | .init plat api => Sys2Proof.Machine.execInit plat api s
  | .render frames note bend shapeLfo => Sys2Proof.Machine.execRender frames note bend shapeLfo s
  | .noteOn note bend => Sys2Proof.Machine.execNoteOn note bend s
  | .noteOff note bend => Sys2Proof.Machine.execNoteOff note bend s
  | .setRandvowel value => Sys2Proof.Machine.execSetRandvowel value s
  | .setShape value => Sys2Proof.Machine.execSetShape value s
  | .setResonance value => Sys2Proof.Machine.execSetResonance value s
  | .setpIgnored index value => Sys2Proof.Machine.execSetpIgnored index value s
  | .reserved op imm28 => Sys2Proof.Machine.execReserved op imm28 s

end Sys2Proof.Machine
end

