-- ==== Sys2Proof/Machine/Step.lean ====
section
/-! DEFINITION. One step runs one command of the host's sequence to completion (spec/10_state.md R14, R23; spec/20_memory.md R35). -/

namespace Sys2Proof.Machine

/-- One step: take the next command and run it; with no command waiting, hold all state (R99, R102). -/
def step (s : State) : Host.Outcome State Fault Refusal :=
  match fetch s with
  | none => .next s
  | some (i, t) => exec i t

/-- s with the command whose bits are w (in the numbering of the opcode table) put first in the host's sequence, so that the next step runs it (log entry 1). -/
def State.withFetchWord (s : State) (nbits w : Nat) : State :=
  { s with cmds := commandOfTableWord nbits w :: s.cmds }

end Sys2Proof.Machine
end

