-- ==== Sys2Proof/Machine/Assembler.lean ====
section
/-! DEFINITION. The assembler syntax of spec/30_encoding.md R48 and its pseudo-instructions of R49: statements, their text, their assembly to a (CMD, ARG) pair, and the disassembler. -/

namespace Sys2Proof.Machine

/-- The statement names of R48 and the pseudo-instructions of R49. -/
inductive AsmName where
  | nop
  | init
  | render
  | noteOn
  | noteOff
  | setp
  | rsvd
  | setRandvowel
  | setShape
  | setResonance
  | reset
deriving DecidableEq, Repr

/-- One statement: its name and the operands written, in order (R48). -/
structure AsmStmt where
  name : AsmName
  operands : List Nat
deriving DecidableEq, Repr

/-- Why the assembler refuses a statement. -/
inductive AsmError where
  /-- An operand does not fit its field (R48). -/
  | outOfRange
  /-- More operands than the statement has (log entry 19). -/
  | tooManyOperands
  /-- The text is no statement of R48 or R49, as the model reads text (log entry 25). -/
  | badText
deriving DecidableEq, Repr

/-- The operands of each statement: the least value of each and the first value above its range (R48). -/
def asmRanges : AsmName → List (Nat × Nat)
  | .nop => []
  | .init => [(0, 256), (0, 256)]
  | .render => [(0, 4096), (0, 256), (0, 256), (0, 2 ^ 32)]
  | .noteOn => [(0, 256), (0, 256)]
  | .noteOff => [(0, 256), (0, 256)]
  | .setp => [(0, 256), (0, 65536)]
  | .rsvd => [(6, 16), (0, 2 ^ 28)]
  | .setRandvowel => [(0, 65536)]
  | .setShape => [(0, 65536)]
  | .setResonance => [(0, 65536)]
  | .reset => []

/-- The operands in full: one left out is 0, and one that does not fit its field is refused (R48). -/
def asmOperands : List (Nat × Nat) → List Nat → Except AsmError (List Nat)
  | [], [] => .ok []
  | [], _ :: _ => .error .tooManyOperands
  | (lo, hi) :: rs, os =>
    let v := os.headD 0
    if lo ≤ v ∧ v < hi then
      match asmOperands rs os.tail with
      | .ok vs => .ok (v :: vs)
      | .error e => .error e
    else .error .outOfRange

/-- The CMD word of R48 for operands in full; a pseudo-instruction is expanded as R49 says. -/
def asmCmd (name : AsmName) (v : List Nat) : Nat :=
  let a := v.getD 0 0
  let b := v.getD 1 0
  let c := v.getD 2 0
  match name with
  | .nop => 0x00000000
  | .init => 0x10000000 ||| a <<< 8 ||| b
  | .render => 0x20000000 ||| a <<< 16 ||| b <<< 8 ||| c
  | .noteOn => 0x30000000 ||| a <<< 8 ||| b
  | .noteOff => 0x40000000 ||| a <<< 8 ||| b
  | .setp => 0x50000000 ||| a <<< 16 ||| b
  | .rsvd => a <<< 28 ||| b
  | .setRandvowel => 0x50000000 ||| 0 <<< 16 ||| a
  | .setShape => 0x50000000 ||| 1 <<< 16 ||| a
  | .setResonance => 0x50000000 ||| 2 <<< 16 ||| a
  | .reset => 0x10000000

/-- The ARG word of R48: the lfo of RENDER, 0 for every other statement. -/
def asmArg (name : AsmName) (v : List Nat) : Nat :=
  match name with
  | .render => v.getD 3 0
  | .nop | .init | .noteOn | .noteOff | .setp | .rsvd => 0
  | .setRandvowel | .setShape | .setResonance | .reset => 0

/-- Each statement assembles to exactly one (CMD, ARG) pair, or is refused (R48). -/
def assemble (t : AsmStmt) : Except AsmError Command :=
  match asmOperands (asmRanges t.name) t.operands with
  | .ok v => .ok ⟨BitVec.ofNat 32 (asmCmd t.name v), BitVec.ofNat 32 (asmArg t.name v)⟩
  | .error e => .error e

/-- The statement a disassembler prints for a command (R48, R49). DESIGN CHOICE: every operand is printed, one that is 0 and RENDER's optional lfo included (log entry 19). -/
def disassembleInstr : Instr → AsmStmt
  | .nop => ⟨.nop, []⟩
  | .init plat api => ⟨.init, [plat.toNat, api.toNat]⟩
  | .render frames note bend lfo => ⟨.render, [frames.toNat, note.toNat, bend.toNat, lfo.toNat]⟩
  | .noteOn note bend => ⟨.noteOn, [note.toNat, bend.toNat]⟩
  | .noteOff note bend => ⟨.noteOff, [note.toNat, bend.toNat]⟩
  | .setRandvowel value => ⟨.setRandvowel, [value.toNat]⟩
  | .setShape value => ⟨.setShape, [value.toNat]⟩
  | .setResonance value => ⟨.setResonance, [value.toNat]⟩
  | .setpIgnored index value => ⟨.setp, [index.toNat, value.toNat]⟩
  | .reserved op imm28 => ⟨.rsvd, [op.toNat, imm28.toNat]⟩

/-- The statement a disassembler prints for a (CMD, ARG) pair. -/
def disassemble (c : Command) : AsmStmt := disassembleInstr (decode c)

/-- The spelling of each name, as R48 and R49 print it. DESIGN CHOICE: no other letter case is accepted (log entry 25). -/
def asmSpelling : AsmName → List Char
  | .nop => ['N', 'O', 'P']
  | .init => ['I', 'N', 'I', 'T']
  | .render => ['R', 'E', 'N', 'D', 'E', 'R']
  | .noteOn => ['N', 'O', 'T', 'E', '_', 'O', 'N']
  | .noteOff => ['N', 'O', 'T', 'E', '_', 'O', 'F', 'F']
  | .setp => ['S', 'E', 'T', 'P']
  | .rsvd => ['R', 'S', 'V', 'D']
  | .setRandvowel => ['S', 'E', 'T', '_', 'R', 'A', 'N', 'D', 'V', 'O', 'W', 'E', 'L']
  | .setShape => ['S', 'E', 'T', '_', 'S', 'H', 'A', 'P', 'E']
  | .setResonance => ['S', 'E', 'T', '_', 'R', 'E', 'S', 'O', 'N', 'A', 'N', 'C', 'E']
  | .reset => ['R', 'E', 'S', 'E', 'T']

/-- Every statement name. -/
def asmNames : List AsmName :=
  [.nop, .init, .render, .noteOn, .noteOff, .setp, .rsvd, .setRandvowel, .setShape, .setResonance, .reset]

/-- The value of a digit character. DESIGN CHOICE: a hexadecimal digit may be in either letter case (log entry 25). -/
def digitValue (ch : Char) : Option Nat :=
  let n := ch.toNat
  if 48 ≤ n ∧ n ≤ 57 then some (n - 48)
  else if 97 ≤ n ∧ n ≤ 102 then some (n - 87)
  else if 65 ≤ n ∧ n ≤ 70 then some (n - 55)
  else none

/-- The digits of a number in a base, after the value so far. -/
def parseDigits (base : Nat) : Nat → List Char → Option Nat
  | acc, [] => some acc
  | acc, ch :: cs =>
    match digitValue ch with
    | some d => if d < base then parseDigits base (base * acc + d) cs else none
    | none => none

/-- A number: decimal, or hexadecimal after 0x (R48). DESIGN CHOICE: the x is lower case only, and 0x alone is no number (log entry 25). -/
def parseNumber : List Char → Option Nat
  | [] => none
  | ['0', 'x'] => none
  | '0' :: 'x' :: cs => parseDigits 16 0 cs
  | cs => parseDigits 10 0 cs

/-- The pieces of a text between occurrences of a character. -/
def splitAt (sep : Char) : List Char → List Char → List (List Char)
  | piece, [] => [piece.reverse]
  | piece, ch :: cs =>
    if ch = sep then piece.reverse :: splitAt sep [] cs else splitAt sep (ch :: piece) cs

/-- A text without its spaces. DESIGN CHOICE: only the space character counts as one (log entry 25). -/
def dropSpaces (cs : List Char) : List Char := cs.filter (fun ch => ch ≠ ' ')

/-- The operands of a statement's text, separated by commas (R48). DESIGN CHOICE: only trailing operands, with their commas, can be left out; an empty place beside a comma is no operand, and the text is refused; spaces in the operand text are disregarded (log entry 25). -/
def parseOperands (cs : List Char) : Option (List Nat) :=
  if dropSpaces cs = [] then some []
  else ((splitAt ',' [] cs).map fun p => parseNumber (dropSpaces p)).mapM id

/-- A statement's text: a name, then its operands (R48). DESIGN CHOICE: the name starts with the first character and ends before the first space, so a text with a space before its name is refused (log entry 25). -/
def parseStatement (cs : List Char) : Except AsmError AsmStmt :=
  match asmNames.find? (fun n => asmSpelling n = cs.takeWhile (fun ch => ch ≠ ' ')),
    parseOperands (cs.dropWhile (fun ch => ch ≠ ' ')) with
  | some n, some os => .ok ⟨n, os⟩
  | _, _ => .error .badText

/-- The pair a statement's text assembles to. -/
def assembleText (cs : List Char) : Except AsmError Command :=
  match parseStatement cs with
  | .ok t => assemble t
  | .error e => .error e

end Sys2Proof.Machine
end

