-- ==== Sys2Proof/Machine/Reference.lean ====
section
/-! DEFINITION. The spec's test configuration T1 (spec/95_test_vectors.md section 0) with the reference SIN and COS of spec/00_scope.md R6. It is NOT the hardware's configuration: the machine runs on `Config.chip`, and T1 serves only the spec's vectors and statements that name it. -/

namespace Sys2Proof.Machine

/-- Fixed-point scale of the reference functions: numbers are multiples of 2^-400. -/
def refScale : Nat := 400

/-- Sum of the alternating Taylor terms from `term`, the next of which is term × x² / ((n+1)(n+2)), over `fuel` terms. -/
def taylorAlt (x2 : Int) : Nat → Nat → Int → Int
  | 0, _, _ => 0
  | fuel + 1, n, term =>
    term - taylorAlt x2 fuel (n + 2) (term * x2 / 2 ^ (2 * refScale) / ((n + 1) * (n + 2) : Nat))

/-- A fixed-point number rounded to binary32. -/
def fixedToF32 (z : Int) : F32 := roundSigned (decide (z < 0)) z.natAbs (2 ^ (refScale - 149))

/-- The sine of a finite x in [-π, π], correctly rounded (R6, D5). -/
def sinRef (x : F32) : F32 :=
  let t := sunits x * 2 ^ (refScale - 149)
  fixedToF32 (taylorAlt (t * t) 60 1 t)

/-- The cosine of a finite x in [-π, π], correctly rounded (R6, D5). -/
def cosRef (x : F32) : F32 :=
  let t := sunits x * 2 ^ (refScale - 149)
  fixedToF32 (taylorAlt (t * t) 60 0 (2 ^ refScale))

/-- PRESET_T1. -/
def presetT1 (k : Fin 5) (i : Fin 2) : F32 :=
  match k.val, i.val with
  | 0, 0 => 0x3DC3B345#32
  | 0, _ => 0x3E121AE1#32
  | 1, 0 => 0x3D8E1572#32
  | 1, _ => 0x3E76A2CF#32
  | 2, 0 => 0x3D10C3BC#32
  | 2, _ => 0x3E997A2F#32
  | 3, 0 => 0x3D98CE9C#32
  | 3, _ => 0x3DE1307A#32
  | _, 0 => 0x3D20D97C#32
  | _, _ => 0x3DE93B5A#32

/-- BLSAW_T1(p, note) = (2 × p) - 1. -/
def blsawT1 (p : F32) (_note : BitVec 8) : F32 := fsub (fmul F_TWO p) F_ONE

/-- ln 2 in the fixed-point scale: 2 (1/3 + 1/(3·3³) + 1/(5·3⁵) + …). -/
def ln2Fixed : Nat → Nat → Nat → Nat
  | 0, _, _ => 0
  | fuel + 1, n, p => 2 * (p / n) + ln2Fixed fuel (n + 2) (p / 9)

/-- Taylor sum of the exponential in the fixed-point scale. -/
def expFixed (x : Nat) : Nat → Nat → Nat → Nat
  | 0, _, _ => 0
  | fuel + 1, n, term => term + expFixed x fuel (n + 1) (term * x / 2 ^ refScale / (n + 1))

/-- PITCH_INC_T1(note, bend) = f32(440 · 2^((n + bend/256 - 69)/12) / 48000) with n = min(note, 127): 2^(k/3072) is split into 2^(k / 3072 - 6) and an exponential below 2. -/
def pitchIncT1 (note bend : BitVec 8) : F32 :=
  let k := 256 * min note.toNat 127 + bend.toNat + (6 * 3072 - 69 * 256)
  let ln2 := ln2Fixed 140 1 (2 ^ refScale / 3)
  let e := expFixed (k % 3072 * ln2 / 3072) 90 0 (2 ^ refScale)
  roundSigned false (e * 440 * 2 ^ (k / 3072)) (48000 * 2 ^ 6 * 2 ^ (refScale - 149))

/-- T1 with a given sequence of noise draws and one of vowel draws. -/
def configT1 (noise : Nat → F32) (vowel : Nat → Fin 5) : Config where
  preset := presetT1
  blsaw := blsawT1
  pitchInc := pitchIncT1
  sin := sinRef
  cos := cosRef
  outByteOrder := .little
  noise := noise
  vowel := vowel
  coefDraw _ := ⟨F_ZERO, F_ZERO, F_ZERO, F_ZERO, F_ZERO⟩

end Sys2Proof.Machine
end

