-- ==== Sys2Proof/Safety.lean ====
section
/-! DEFINITION. The terms claims are stated in: the rational value of a binary32 and what correct rounding is (spec/00_scope.md R9), the invariant of spec/10_state.md R28 as far as binary32 keeps it, and the observation of a run (spec/70_reset_and_hazards.md R100). -/

namespace Sys2Proof.Machine

/-- The number a finite binary32 stands for. -/
def value (x : F32) : ℚ := (sunits x : ℚ) / 2 ^ 149

/-- The largest finite binary32 plus half a unit in its last place: IEEE 754 rounds from here on to infinity. -/
def overflowBound : ℚ := (2 ^ 25 - 1) * 2 ^ 103

/-- x is the finite binary32 nearest r, and on a tie the one whose last bit is 0 (R9). -/
structure IsNearest (r : ℚ) (x : F32) : Prop where
  finite : isFinite x = true
  nearest : ∀ y, isFinite y = true → |r - value x| ≤ |r - value y|
  even : ∀ y, isFinite y = true → |r - value y| = |r - value x| → value y ≠ value x → fmag x % 2 = 0

/-- x is r rounded to binary32, ties to even, with overflow to infinity (R9). -/
def RoundsTo (r : ℚ) (x : F32) : Prop :=
  if |r| < overflowBound then IsNearest r x else x = pack (decide (r < 0)) 0x7F800000

/-- The integer part of a rational, rounded toward zero (R10). -/
def ratTrunc (r : ℚ) : Int := if 0 ≤ r then ⌊r⌋ else ⌈r⌉

/-- The invariant of R28 (a) to (d), and the range of OUT words of R83. R28 (e) is left out: binary32 rounding can take F past it (log entry 4), so (a) speaks of the arguments SETCOEF has formulas for. -/
structure State.Inv (s : State) : Prop where
  coefs0 : setCoefPre s.f0 s.q = true → s.bq0.coefs = bandpass Config.chip s.f0 s.q
  coefs1 : setCoefPre s.f1 s.q = true → s.bq1.coefs = bandpass Config.chip s.f1 s.q
  qLow : fle SQRT2 s.q = true
  qHigh : fle s.q Q_MAX = true
  gain : s.g = gainOf s.q
  phase : isPhase s.phase = true
  out : ∀ w ∈ s.out, w ≠ 0x80000000#32

/-- The run's observation: OUT (R100). -/
def observation (s : State) : List Word := s.out

/-- The registers and counters RENDER reads are equal: coefficients and delays of both filters, PHASE, G, and how many noise draws were taken (R26, R81). -/
structure SameRenderInputs (s t : State) : Prop where
  bq0 : s.bq0 = t.bq0
  bq1 : s.bq1 = t.bq1
  phase : s.phase = t.phase
  g : s.g = t.g
  noiseCount : s.noiseCount = t.noiseCount

end Sys2Proof.Machine
end

