-- ==== Sys2Proof/Certificates/Slice0/Obligations.lean ====
section
/-! DEFINITION. The statements for the provers. Each docstring names the rule of spec/ it follows. -/

namespace Sys2Proof.Claims

open Sys2Proof.Machine

/-- s with new coefficients in its filters and the delay registers kept. -/
def withCoefs (s : State) (c0 c1 : Coefs) : State :=
  { s with bq0 := ⟨c0, s.bq0.z1, s.bq0.z2⟩, bq1 := ⟨c1, s.bq1.z1, s.bq1.z2⟩ }

/-- s with new delay registers in its filters and the coefficients kept. -/
def withDelays (s : State) (z01 z02 z11 z12 : F32) : State :=
  { s with bq0 := ⟨s.bq0.coefs, z01, z02⟩, bq1 := ⟨s.bq1.coefs, z11, z12⟩ }

/-- t's coefficients are those of SETCOEF(F[j], Q) for t's F and Q wherever SETCOEF's precondition holds, and where it holds for both filters no coefficient draw was taken since s. -/
def Tuned (s t : State) : Prop :=
  (setCoefPre t.f0 t.q = true → t.bq0.coefs = bandpass Config.chip t.f0 t.q) ∧
  (setCoefPre t.f1 t.q = true → t.bq1.coefs = bandpass Config.chip t.f1 t.q) ∧
  (setCoefPre t.f0 t.q = true → setCoefPre t.f1 t.q = true → t.coefCount = s.coefCount)

/-- The registers of t hold the reset values of R29, the coefficients by the formulas of SETCOEF within its precondition. -/
def HasResetValues (t : State) : Prop :=
  t.randFlag = false ∧ t.f0 = Config.chip.preset 0 0 ∧ t.f1 = Config.chip.preset 0 1 ∧
  t.q = 0x3FB504F3#32 ∧ t.g = 0x3F800000#32 ∧
  setCoefPre t.f0 0x3FB504F3#32 = true ∧ setCoefPre t.f1 0x3FB504F3#32 = true ∧
  t.bq0 = ⟨bandpass Config.chip t.f0 0x3FB504F3#32, 0x00000000#32, 0x00000000#32⟩ ∧
  t.bq1 = ⟨bandpass Config.chip t.f1 0x3FB504F3#32, 0x00000000#32, 0x00000000#32⟩ ∧
  t.phase = 0x00000000#32 ∧ t.out = []

/-- The bits of CMD that a format does not mark "ign" (R41), by OP. -/
def significantBits (op : BitVec 4) : Word :=
  if op = 0#4 then 0xF0000000#32
  else if op = 1#4 ∨ op = 3#4 ∨ op = 4#4 then 0xF000FFFF#32
  else if op = 2#4 then 0xFFFFFFFF#32
  else if op = 5#4 then 0xF0FFFFFF#32
  else 0xF0000000#32

/-- F[i] of SET_SHAPE lies between the two preset entries it is interpolated from (R75). -/
def NoOvershoot (c : Config) (v : BitVec 16) (i : Fin 2) : Prop :=
  let lo := c.preset (shapeIdx v).castSucc i
  let hi := c.preset (shapeIdx v).succ i
  min (fkey lo) (fkey hi) ≤ fkey (shapeFreq c v i) ∧ fkey (shapeFreq c v i) ≤ max (fkey lo) (fkey hi)

end Sys2Proof.Claims

open Sys2Proof Sys2Proof.Machine Sys2Proof.Claims

/-! ### The step and the sequence of commands -/

/-- One step takes the next command of the host's sequence and runs what it decodes to (R3, R14, R23). The sequence stands in the model's own field cmds (log entry 1). -/
def Obligations.StepRunsNextCommand : Prop :=
  ∀ (s : State) (c : Command) (rest : List Command), s.cmds = c :: rest →
    step s = exec (decode c) { s with cmds := rest }

/-- With no command waiting a step holds all state (R99, R102). -/
def Obligations.StepHoldsStateWithoutCommand : Prop :=
  ∀ s : State, s.cmds = [] → step s = .next s

/-- Every pair of words decodes to a command that completes in every state, and every step does: nothing faults (R88). -/
def Obligations.EveryCommandCompletes : Prop :=
  (∀ (c : Command) (s : State), ∃ t, exec (decode c) s = .next t) ∧ ∀ s : State, ∃ t, step s = .next t

/-- A run of finitely many commands ends with no command left (R100). -/
def Obligations.FiniteRunEnds : Prop :=
  ∀ s : State, ∃ t : State, Sys2Proof.core.run s.cmds.length s = .next t ∧ t.cmds = []

/-- A command sees all the effects of the earlier ones and none of the later ones: a run over a prefix of the sequence is the run of that prefix alone (R36). -/
def Obligations.LaterCommandsDoNotReachBack : Prop :=
  ∀ (s : State) (first later : List Command), ∃ t : State,
    Sys2Proof.core.run first.length { s with cmds := first } = .next { t with cmds := [] } ∧
    Sys2Proof.core.run first.length { s with cmds := first ++ later } = .next { t with cmds := later }

/-! ### Encoding -/

/-- The decoder of R46, written with the numbers of the fields. That RESERVED carries CMD[27:0] is the model's choice (log entry 19): R46 gives it OP alone, R48 names those bits imm28 and R87 says that they are ignored. -/
def Obligations.DecoderFollowsOpcodeMap : Prop :=
  ∀ c : Command,
    let w := c.cmd.toNat
    let op := w / 2 ^ 28
    let hi := BitVec.ofNat 8 (w / 2 ^ 8)
    let lo := BitVec.ofNat 8 w
    let index := w / 2 ^ 16 % 2 ^ 8
    let v := BitVec.ofNat 16 w
    (op = 0 → decode c = .nop) ∧
    (op = 1 → decode c = .init hi lo) ∧
    (op = 2 → decode c = .render (BitVec.ofNat 12 (w / 2 ^ 16)) hi lo c.arg) ∧
    (op = 3 → decode c = .noteOn hi lo) ∧
    (op = 4 → decode c = .noteOff hi lo) ∧
    (op = 5 → index = 0 → decode c = .setRandvowel v) ∧
    (op = 5 → index = 1 → decode c = .setShape v) ∧
    (op = 5 → index = 2 → decode c = .setResonance v) ∧
    (op = 5 → 3 ≤ index → decode c = .setpIgnored (BitVec.ofNat 8 index) v) ∧
    (6 ≤ op → decode c = .reserved (BitVec.ofNat 4 op) (BitVec.ofNat 28 w))

/-- Decoding the words of a well-formed command gives it back, with every operand at every value. -/
def Obligations.DecodeOfEncodeIsIdentity : Prop :=
  ∀ i : Instr, i.WellFormed → decode (encode i) = i

/-- Whatever the words, the decoded command is well formed and its own encoding decodes to it. -/
def Obligations.DecodedCommandIsWellFormed : Prop :=
  ∀ c : Command, (decode c).WellFormed ∧ decode (encode (decode c)) = decode c

/-- A bit of CMD marked "ign" has no effect, and ARG has none outside RENDER (R40, R41, R47). -/
def Obligations.IgnoredBitsHaveNoEffect : Prop :=
  ∀ (c d : Command) (s : State),
    c.cmd &&& significantBits (opField c.cmd) = d.cmd &&& significantBits (opField c.cmd) →
    (opField c.cmd = 2#4 → c.arg = d.arg) →
    exec (decode c) s = exec (decode d) s

/-- Command words written out from the encoding tables decode to what they stand for (vectors ENC-2, 4, 5, 6, 8, 9, 10, 13, 12, 15, 16). -/
def Obligations.SampleWordsDecode : Prop :=
  decode ⟨0x0ABCDEF0#32, 7#32⟩ = .nop ∧
  decode ⟨0x1FFF1234#32, 7#32⟩ = .init 0x12#8 0x34#8 ∧
  decode ⟨0x20013C00#32, 0#32⟩ = .render 1#12 60#8 0#8 0#32 ∧
  decode ⟨0x2FFF7FFF#32, 0xFFFFFFFF#32⟩ = .render 4095#12 127#8 255#8 0xFFFFFFFF#32 ∧
  decode ⟨0x30003C00#32, 7#32⟩ = .noteOn 60#8 0#8 ∧
  decode ⟨0x4ABC3C00#32, 7#32⟩ = .noteOff 60#8 0#8 ∧
  decode ⟨0x50000001#32, 7#32⟩ = .setRandvowel 1#16 ∧
  decode ⟨0x5F010005#32, 7#32⟩ = .setShape 5#16 ∧
  decode ⟨0x500203FF#32, 7#32⟩ = .setResonance 1023#16 ∧
  decode ⟨0x50FFFFFF#32, 7#32⟩ = .setpIgnored 255#8 0xFFFF#16 ∧
  decode ⟨0x60000000#32, 7#32⟩ = .reserved 6#4 0#28

/-- The assembler turns the statement a disassembler prints for a well-formed command into that command's words (R48, R49). -/
def Obligations.AssembleOfDisassembleIsEncode : Prop :=
  ∀ i : Instr, i.WellFormed → assemble (disassembleInstr i) = .ok (encode i)

/-- The assembler takes a statement exactly when every operand, one left out counting as 0, fits its field (R48), and there are no more operands than fields (the model's choice, log entry 19). -/
def Obligations.AssemblerRefusesWhatDoesNotFit : Prop :=
  ∀ t : AsmStmt, (∃ c, assemble t = .ok c) ↔
    t.operands.length ≤ (asmRanges t.name).length ∧
    ∀ (k lo hi : Nat), (asmRanges t.name)[k]? = some (lo, hi) →
      lo ≤ t.operands.getD k 0 ∧ t.operands.getD k 0 < hi

/-- The pseudo-instructions are their expansions, for every operand, and a disassembler prints them (R49). -/
def Obligations.PseudoInstructionsExpand : Prop :=
  (∀ v : Nat, assemble ⟨.setRandvowel, [v]⟩ = assemble ⟨.setp, [0, v]⟩ ∧
    assemble ⟨.setShape, [v]⟩ = assemble ⟨.setp, [1, v]⟩ ∧
    assemble ⟨.setResonance, [v]⟩ = assemble ⟨.setp, [2, v]⟩) ∧
  assemble ⟨.reset, []⟩ = assemble ⟨.init, [0, 0]⟩ ∧
  (∀ v : BitVec 16,
    disassemble ⟨packParam 0#8 v, 0#32⟩ = ⟨.setRandvowel, [v.toNat]⟩ ∧
    disassemble ⟨packParam 1#8 v, 0#32⟩ = ⟨.setShape, [v.toNat]⟩ ∧
    disassemble ⟨packParam 2#8 v, 0#32⟩ = ⟨.setResonance, [v.toNat]⟩) ∧
  ∀ c : Command, 6 ≤ c.cmd.toNat / 2 ^ 28 →
    disassemble c = ⟨.rsvd, [c.cmd.toNat / 2 ^ 28, c.cmd.toNat % 2 ^ 28]⟩

/-! ### The no-op commands -/

/-- NOP (R86). -/
def Obligations.NopChangesNothing : Prop :=
  (∀ c : Command, c.cmd &&& 0xF0000000#32 = 0x00000000#32 → decode c = .nop) ∧
  ∀ s : State, exec .nop s = .next s

/-- NOTE_OFF (R74). -/
def Obligations.NoteOffChangesNothing : Prop :=
  (∀ c : Command, c.cmd &&& 0xF0000000#32 = 0x40000000#32 →
    decode c = .noteOff (c.cmd.extractLsb' 8 8) (c.cmd.extractLsb' 0 8)) ∧
  ∀ (note bend : BitVec 8) (s : State), exec (.noteOff note bend) s = .next s

/-- SETP_IGNORED (R72). -/
def Obligations.OutOfRangeIndexIsIgnored : Prop :=
  (∀ c : Command, c.cmd &&& 0xF0000000#32 = 0x50000000#32 → 3 ≤ (c.cmd.extractLsb' 16 8).toNat →
    decode c = .setpIgnored (c.cmd.extractLsb' 16 8) (c.cmd.extractLsb' 0 16)) ∧
  (∀ (index : BitVec 8) (v : BitVec 16) (s : State), exec (.setpIgnored index v) s = .next s) ∧
  ∀ arg : Word, decode ⟨0x5F010005#32, arg⟩ = .setShape 5#16

/-- RESERVED, both rows: no state changes (R87). That the decoded command carries CMD[27:0] and drops ARG, both of which R87 says are ignored, is the model's choice (log entry 19). -/
def Obligations.ReservedOpcodesAreNoOps : Prop :=
  (∀ c : Command, c.cmd &&& 0xE0000000#32 = 0x60000000#32 ∨ c.cmd &&& 0x80000000#32 = 0x80000000#32 →
    decode c = .reserved (c.cmd.extractLsb' 28 4) (c.cmd.extractLsb' 0 28)) ∧
  ∀ (op : BitVec 4) (imm : BitVec 28) (s : State), exec (.reserved op imm) s = .next s

/-! ### Parameter and note commands -/

/-- SET_RANDVOWEL (R69): the flag is stored and nothing else changes. -/
def Obligations.SetRandvowelStoresFlag : Prop :=
  (∀ c : Command, c.cmd &&& 0xF0FF0000#32 = 0x50000000#32 →
    decode c = .setRandvowel (c.cmd.extractLsb' 0 16)) ∧
  ∀ (v : BitVec 16) (s : State),
    exec (.setRandvowel v) s = .next { s with randFlag := decide (v.toNat ≠ 0) }

/-- SET_SHAPE (R70): F is the pseudocode's interpolation, RETUNE follows, and nothing but F and the coefficients changes. Outside SETCOEF's precondition the coefficients are free (R56). -/
def Obligations.SetShapeInterpolatesAndRetunes : Prop :=
  (∀ c : Command, c.cmd &&& 0xF0FF0000#32 = 0x50010000#32 →
    decode c = .setShape (c.cmd.extractLsb' 0 16)) ∧
  ∀ (v : BitVec 16) (s : State),
    let sv := fdiv (f32OfInt (min v.toNat 1023 : Nat)) (f32OfInt 1023)
    let idf := fmul sv 0x40800000#32
    let idx := min (floorInt idf) 3
    let off := fsub idf (f32OfInt idx)
    let w0 := fsub 0x3F800000#32 off
    ∃ (k : Fin 4) (t : State), (k.val : Int) = idx ∧ exec (.setShape v) s = .next t ∧
      t.f0 = fadd (fmul w0 (Config.chip.preset k.castSucc 0)) (fmul off (Config.chip.preset k.succ 0)) ∧
      t.f1 = fadd (fmul w0 (Config.chip.preset k.castSucc 1)) (fmul off (Config.chip.preset k.succ 1)) ∧
      Tuned s t ∧
      t = withCoefs { s with f0 := t.f0, f1 := t.f1, coefCount := t.coefCount } t.bq0.coefs t.bq1.coefs

/-- VALUE 0 gives vowel "a" exactly and every VALUE from 1023 on the last preset exactly (R70). -/
def Obligations.ShapeEndsAreExactPresets : Prop :=
  ∀ (v : BitVec 16) (s : State),
    (v.toNat = 0 → ∃ t, exec (.setShape v) s = .next t ∧
      t.f0 = Config.chip.preset 0 0 ∧ t.f1 = Config.chip.preset 0 1) ∧
    (1023 ≤ v.toNat → ∃ t, exec (.setShape v) s = .next t ∧
      t.f0 = Config.chip.preset 4 0 ∧ t.f1 = Config.chip.preset 4 1)

/-- SET_RESONANCE (R71): Q and G are the pseudocode's, Q stays in [SQRT2, 16], RETUNE follows, and nothing but Q, G and the coefficients changes. -/
def Obligations.SetResonanceSetsQAndGain : Prop :=
  (∀ c : Command, c.cmd &&& 0xF0FF0000#32 = 0x50020000#32 →
    decode c = .setResonance (c.cmd.extractLsb' 0 16)) ∧
  ∀ (v : BitVec 16) (s : State),
    let r := fdiv (f32OfInt (min v.toNat 1023 : Nat)) (f32OfInt 1023)
    ∃ t : State, exec (.setResonance v) s = .next t ∧
      t.q = fadd 0x3FB504F3#32 (fmul r 0x41695F62#32) ∧
      t.g = fadd 0x3F800000#32 (fdiv (fsub t.q 0x3FB504F3#32) 0x40E24630#32) ∧
      fle 0x3FB504F3#32 t.q = true ∧ fle t.q 0x41800000#32 = true ∧
      Tuned s t ∧
      t = withCoefs { s with q := t.q, g := t.g, coefCount := t.coefCount } t.bq0.coefs t.bq1.coefs

/-- VALUE 0 gives Q = SQRT2 and G = 1 exactly, every VALUE from 1023 on Q = 16 exactly and G = 0x404403F6 (R71). -/
def Obligations.ResonanceEndsAreExact : Prop :=
  ∀ (v : BitVec 16) (s : State),
    (v.toNat = 0 → ∃ t, exec (.setResonance v) s = .next t ∧ t.q = 0x3FB504F3#32 ∧ t.g = 0x3F800000#32) ∧
    (1023 ≤ v.toNat → ∃ t, exec (.setResonance v) s = .next t ∧ t.q = 0x41800000#32 ∧ t.g = 0x404403F6#32)

/-- PVAL (R68): the binary32 nearest min(VALUE, 1023) / 1023. -/
def Obligations.ParameterValueIsNearestFraction : Prop :=
  (∀ v : BitVec 16, IsNearest ((min v.toNat 1023 : Nat) / 1023) (pval v)) ∧
  pval 0#16 = 0x00000000#32 ∧
  (∀ v : BitVec 16, 1023 ≤ v.toNat → pval v = 0x3F800000#32) ∧
  pval 512#16 = 0x3F002008#32

/-- NOTE_ON (R73): with the flag clear nothing changes; with it set some vowel's preset becomes F, RETUNE follows, one vowel draw is taken, and nothing else changes: not PHASE, the delay registers, Q or G. The draw counters are the model's own (log entries 3 and 4). -/
def Obligations.NoteOnDrawsVowelOnlyWithFlag : Prop :=
  (∀ c : Command, c.cmd &&& 0xF0000000#32 = 0x30000000#32 →
    decode c = .noteOn (c.cmd.extractLsb' 8 8) (c.cmd.extractLsb' 0 8)) ∧
  ∀ (note bend : BitVec 8) (s : State),
    (s.randFlag = false → exec (.noteOn note bend) s = .next s) ∧
    (s.randFlag = true → ∃ (k : Fin 5) (t : State), exec (.noteOn note bend) s = .next t ∧
      t.f0 = Config.chip.preset k 0 ∧ t.f1 = Config.chip.preset k 1 ∧
      Tuned s t ∧
      (flt 0x00000000#32 s.q = true →
        t.bq0.coefs = bandpass Config.chip t.f0 s.q ∧ t.bq1.coefs = bandpass Config.chip t.f1 s.q) ∧
      t = withCoefs
        { s with f0 := t.f0, f1 := t.f1, vowelCount := s.vowelCount + 1, coefCount := t.coefCount }
        t.bq0.coefs t.bq1.coefs)

/-- SETCOEF's formulas (R51), as SET_RESONANCE's RETUNE writes them into both filters while F is in SETCOEF's range: b1 is +0, b2 the exact negation of b0, and the delay registers are kept (R55). -/
def Obligations.RetuneWritesBandpassDesign : Prop :=
  ∀ (v : BitVec 16) (s : State), inOpenPi s.f0 = true → inOpenPi s.f1 = true →
    ∃ t, exec (.setResonance v) s = .next t ∧
      let design (w : F32) : Coefs :=
        let alpha := fdiv (Config.chip.sin w) (fmul 0x40000000#32 t.q)
        let a0 := fadd 0x3F800000#32 alpha
        ⟨fdiv alpha a0, 0x00000000#32, fdiv alpha a0 ^^^ 0x80000000#32,
          fdiv (fmul 0xC0000000#32 (Config.chip.cos w)) a0, fdiv (fsub 0x3F800000#32 alpha) a0⟩
      t.bq0 = ⟨design s.f0, s.bq0.z1, s.bq0.z2⟩ ∧ t.bq1 = ⟨design s.f1, s.bq1.z1, s.bq1.z2⟩

/-- Issuing the same SET_RESONANCE twice leaves what issuing it once leaves, delay registers included, while F is in SETCOEF's range (R51, R59; SRC-10). -/
def Obligations.RepeatedResonanceIsIdempotent : Prop :=
  ∀ (v : BitVec 16) (s : State), inOpenPi s.f0 = true → inOpenPi s.f1 = true →
    ∃ t, exec (.setResonance v) s = .next t ∧ exec (.setResonance v) t = .next t ∧
      t.bq0.z1 = s.bq0.z1 ∧ t.bq0.z2 = s.bq0.z2 ∧ t.bq1.z1 = s.bq1.z1 ∧ t.bq1.z2 = s.bq1.z2

/-! ### Floating-point exceptions of the coefficient and parameter computations -/

/-- R90 for SETCOEF and the parameter commands. R7 sets no condition on SIN and COS, so what R90 supposes of them is a premise here (log entry 22): sin(w) is a number above 0, and doubling cos(w) does not overflow. Then every divisor is positive and every result is a number, so none of invalid, divide-by-zero and overflow arises; where sin(w) is at most 1 and cos(w) in [-1, 1] the results have the bounds of the last clause. a0 = 1 + alpha exceeds 1 before it is rounded; the binary32 a0 is at least 1. -/
def Obligations.SetupRaisesNoFloatingPointException : Prop :=
  ∀ c : Config, c.Admitted →
    (∀ w q : F32, inOpenPi w = true → fle 0x3FB504F3#32 q = true → fle q 0x41800000#32 = true →
      flt 0x00000000#32 (c.sin w) = true → isFinite (c.sin w) = true →
      fle 0xFEFFFFFF#32 (c.cos w) = true → fle (c.cos w) 0x7EFFFFFF#32 = true →
      let divisor := fmul 0x40000000#32 q
      let alpha := fdiv (c.sin w) divisor
      let a0 := fadd 0x3F800000#32 alpha
      let k := bandpass c w q
      fle 0x403504F3#32 divisor = true ∧ fle divisor 0x42000000#32 = true ∧
      0 < value (c.sin w) / value divisor ∧
      fle 0x00000000#32 alpha = true ∧ isFinite alpha = true ∧
      fle 0x3F800000#32 a0 = true ∧ isFinite a0 = true ∧
      fle 0x00000000#32 k.b0 = true ∧ fle k.b0 0x3F800000#32 = true ∧
      fle 0xBF800000#32 k.b2 = true ∧ fle k.b2 0x00000000#32 = true ∧
      isFinite k.a1 = true ∧
      fle 0xBF800000#32 k.a2 = true ∧ fle k.a2 0x3F800000#32 = true ∧
      (inSineRange (c.sin w) = true → inUnit (c.cos w) = true →
        fle alpha 0x3F800000#32 = true ∧ fle a0 0x40000000#32 = true ∧
        fle 0xC0000000#32 k.a1 = true ∧ fle k.a1 0x40000000#32 = true ∧
        fle 0x00000000#32 k.a2 = true)) ∧
    ∀ v : BitVec 16,
      fle 0x00000000#32 (pval v) = true ∧ fle (pval v) 0x3F800000#32 = true ∧
      (∀ i : Fin 2, isFinite (shapeFreq c v i) = true) ∧
      isFinite (resonanceQ v) = true ∧ isFinite (gainOf (resonanceQ v)) = true

/-- R90's divisor a0, at least 1 once rounded, read for every configuration that R7 admits. R7 admits any SIN, so a SIN that is negative at some angle breaks it (log entry 22), and it is expected to fail. -/
def Obligations.DivisorA0IsAtLeastOneForEverySine : Prop :=
  ∀ c : Config, c.Admitted → ∀ w q : F32,
    inOpenPi w = true → fle 0x3FB504F3#32 q = true → fle q 0x41800000#32 = true →
    fle 0x3F800000#32 (fadd 0x3F800000#32 (fdiv (c.sin w) (fmul 0x40000000#32 q))) = true

/-- R53's a2 < 1 for every admitted (w, q), read for the spec's test configuration T1 with the reference SIN and COS. R53 says itself that it is not proved; rounding gives a2 = 1 for w just below π and q = 16 (log entry 26), so it is expected to fail. -/
def Obligations.RoundedA2StaysBelowOne : Prop :=
  ∀ (noise : Nat → F32) (vowel : Nat → Fin 5) (w q : F32),
    inOpenPi w = true → fle 0x3FB504F3#32 q = true → fle q 0x41800000#32 = true →
    flt (bandpass (configT1 noise vowel) w q).a2 0x3F800000#32 = true

/-! ### The interpolation bound in binary32 -/

/-- R28 (e) and R75 read for every admitted table: F[i] never leaves its two bounding presets. Binary32 rounding breaks it (R75 says it is not proved), so it is expected to fail. -/
def Obligations.NoOvershootForEveryTable : Prop :=
  ∀ c : Config, c.Admitted → ∀ (v : BitVec 16) (i : Fin 2), NoOvershoot c v i

/-- The bound holds for the spec's test table T1 at every VALUE (R75, SRC-8). -/
def Obligations.NoOvershootForTestTable : Prop :=
  ∀ (noise : Nat → F32) (vowel : Nat → Fin 5) (v : BitVec 16) (i : Fin 2),
    NoOvershoot (configT1 noise vowel) v i

/-- R28 (e)'s F[i] < π read for every admitted table. A table whose neighbouring entries are the largest binary32 below π breaks it, so it is expected to fail. -/
def Obligations.InterpolationStaysBelowPi : Prop :=
  ∀ c : Config, c.Admitted → ∀ (v : BitVec 16) (i : Fin 2), fle (shapeFreq c v i) 0x40490FDA#32 = true

/-- R28 (e)'s 0 < F[i] for every admitted table. -/
def Obligations.InterpolationStaysPositive : Prop :=
  ∀ c : Config, c.Admitted → ∀ (v : BitVec 16) (i : Fin 2), flt 0x00000000#32 (shapeFreq c v i) = true

/-! ### Reset and INIT -/

/-- The reset values of R29, after power-on reset and after every INIT. -/
def Obligations.ResetValues : Prop :=
  HasResetValues State.reset ∧
  ∀ (plat api : BitVec 8) (s : State), ∃ t, exec (.init plat api) s = .next t ∧ HasResetValues t

/-- INIT leaves the reset state, from any state (R85, R101). It takes no draw. The command sequence and the draw counters, which are the model's own (log entries 1 to 4), stay. -/
def Obligations.InitLeavesResetState : Prop :=
  (∀ c : Command, c.cmd &&& 0xF0000000#32 = 0x10000000#32 →
    decode c = .init (c.cmd.extractLsb' 8 8) (c.cmd.extractLsb' 0 8)) ∧
  ∀ (plat api : BitVec 8) (s : State),
    exec (.init plat api) s = .next { State.reset with
      cmds := s.cmds, noiseCount := s.noiseCount, vowelCount := s.vowelCount, coefCount := s.coefCount }

/-- INIT leaves what SETP 0, 0; SETP 1, 0; SETP 2, 0 leave, with the delay registers and PHASE zeroed and OUT emptied (R85). Q > 0, which R28 (b) gives, keeps SET_SHAPE from taking a coefficient draw. -/
def Obligations.InitEqualsZeroParameters : Prop :=
  ∀ (plat api : BitVec 8) (s : State), flt 0x00000000#32 s.q = true →
    ∃ t1 t2 t3 : State, exec (.setRandvowel 0#16) s = .next t1 ∧ exec (.setShape 0#16) t1 = .next t2 ∧
      exec (.setResonance 0#16) t2 = .next t3 ∧
      exec (.init plat api) s = .next
        (withDelays { t3 with phase := 0x00000000#32, out := [] }
          0x00000000#32 0x00000000#32 0x00000000#32 0x00000000#32)

/-! ### RENDER -/

/-- RENDER appends exactly FRAMES words, takes FRAMES noise draws, advances PHASE by FRAMES increments, and changes nothing but PHASE, the delay registers and OUT (R26, R81). The draws are counted in the model's own field noiseCount (log entry 2). -/
def Obligations.RenderAppendsFramesWords : Prop :=
  (∀ c : Command, c.cmd &&& 0xF0000000#32 = 0x20000000#32 →
    decode c = .render (c.cmd.extractLsb' 16 12) (c.cmd.extractLsb' 8 8) (c.cmd.extractLsb' 0 8) c.arg) ∧
  ∀ (n : BitVec 12) (note bend : BitVec 8) (lfo : Word) (s : State),
    ∃ (t : State) (ws : List Word), exec (.render n note bend lfo) s = .next t ∧
      ws.length = n.toNat ∧
      t.phase = (fun p => nextPhase p (Config.chip.pitchInc note bend))^[n.toNat] s.phase ∧
      t = withDelays
        { s with phase := t.phase, out := s.out ++ ws, noiseCount := s.noiseCount + n.toNat }
        t.bq0.z1 t.bq0.z2 t.bq1.z1 t.bq1.z2

/-- One frame, step by step as R80 orders it, with PROCESS of R52, the mean of R58, the gain of R77 and the conversion of R79. The noise draw is read at the model's own counter (log entry 2). -/
def Obligations.RenderOneFrame : Prop :=
  ∀ (note bend : BitVec 8) (lfo : Word) (s : State),
    let n := Config.chip.noise s.noiseCount
    let e := fadd (fmul 0x3F733333#32 (Config.chip.blsaw s.phase note)) (fmul 0x3D4CCCCD#32 n)
    let k0 := s.bq0.coefs
    let k1 := s.bq1.coefs
    let y0 := fadd (fmul k0.b0 e) s.bq0.z1
    let y1 := fadd (fmul k1.b0 e) s.bq1.z1
    let m := fmul (fadd y0 y1) 0x3F000000#32
    let p := fadd s.phase (Config.chip.pitchInc note bend)
    exec (.render 1#12 note bend lfo) s = .next
      (withDelays
        { s with
          phase := fsub p (f32OfInt (truncInt p))
          out := s.out ++ [toQ31 (clip (fmul m s.g))]
          noiseCount := s.noiseCount + 1 }
        (fadd (fsub (fmul k0.b1 e) (fmul k0.a1 y0)) s.bq0.z2)
        (fsub (fmul k0.b2 e) (fmul k0.a2 y0))
        (fadd (fsub (fmul k1.b1 e) (fmul k1.a1 y1)) s.bq1.z2)
        (fsub (fmul k1.b2 e) (fmul k1.a2 y1)))

/-- FRAMES = 0 changes nothing; a RENDER is its first frames and then the rest, so a host may split one (R81, R107). -/
def Obligations.RenderSplits : Prop :=
  ∀ (m n : BitVec 12) (note bend : BitVec 8) (l1 l2 l3 : Word) (s : State),
    exec (.render 0#12 note bend l1) s = .next s ∧
    (m.toNat + n.toNat < 4096 → ∃ t u : State,
      exec (.render m note bend l1) s = .next t ∧
      exec (.render n note bend l2) t = .next u ∧
      exec (.render (m + n) note bend l3) s = .next u)

/-- SHAPE_LFO is read and has no effect: no state depends on ARG (R82). -/
def Obligations.ShapeLfoHasNoEffect : Prop :=
  ∀ (n : BitVec 12) (note bend : BitVec 8) (l1 l2 : Word) (s : State),
    exec (.render n note bend l1) s = exec (.render n note bend l2) s

/-- RENDER reads only the coefficients, G, PHASE, the delay registers and its draws: two states that agree on them get the same new words and agree on them again, whatever F, Q, RAND_FLAG and OUT hold (R26, R81). That the draws depend on a counter alone is the model's choice (log entry 2). -/
def Obligations.RenderReadsOnlyItsInputs : Prop :=
  ∀ (n : BitVec 12) (note bend : BitVec 8) (lfo : Word) (s t : State), SameRenderInputs s t →
    ∃ (s' t' : State) (ws : List Word),
      exec (.render n note bend lfo) s = .next s' ∧ exec (.render n note bend lfo) t = .next t' ∧
      SameRenderInputs s' t' ∧ s'.out = s.out ++ ws ∧ t'.out = t.out ++ ws

/-! ### Whole-machine rules -/

/-- The write columns of the access matrix (R26): which commands may change which state. That no command changes the commands still to run rests on R23, by which no command transfers control, and on the model's own field cmds (log entries 1 and 18). -/
def Obligations.OnlyTheListedCommandsWrite : Prop :=
  ∀ (i : Instr) (s t : State), exec i s = .next t →
    t.cmds = s.cmds ∧
    ((∃ v, i = .setRandvowel v) ∨ (∃ p a, i = .init p a) ∨ t.randFlag = s.randFlag) ∧
    ((∃ v, i = .setResonance v) ∨ (∃ p a, i = .init p a) ∨ (t.q = s.q ∧ t.g = s.g)) ∧
    ((∃ v, i = .setShape v) ∨ (∃ n b, i = .noteOn n b ∧ s.randFlag = true) ∨ (∃ p a, i = .init p a) ∨
      (t.f0 = s.f0 ∧ t.f1 = s.f1)) ∧
    ((∃ v, i = .setShape v) ∨ (∃ v, i = .setResonance v) ∨ (∃ n b, i = .noteOn n b ∧ s.randFlag = true) ∨
      (∃ p a, i = .init p a) ∨ (t.bq0.coefs = s.bq0.coefs ∧ t.bq1.coefs = s.bq1.coefs)) ∧
    ((∃ f n b l, i = .render f n b l) ∨ (∃ p a, i = .init p a) ∨
      (t.bq0.z1 = s.bq0.z1 ∧ t.bq0.z2 = s.bq0.z2 ∧ t.bq1.z1 = s.bq1.z1 ∧ t.bq1.z2 = s.bq1.z2 ∧
        t.phase = s.phase ∧ t.out = s.out))

/-- OUT is append-only but for INIT, which empties it, and only RENDER appends (R32). -/
def Obligations.OutIsAppendOnly : Prop :=
  ∀ (i : Instr) (s t : State), exec i s = .next t →
    ((∃ p a, i = .init p a) ∧ t.out = []) ∨
    (∃ f n b l, i = .render f n b l ∧ ∃ ws : List Word, ws.length = f.toNat ∧ t.out = s.out ++ ws) ∨
    t.out = s.out

/-- No command reads OUT: replacing its contents changes nothing else a command does (R26, R30). -/
def Obligations.OutIsNeverRead : Prop :=
  ∀ (i : Instr) (s t : State) (ws : List Word), exec i s = .next t →
    ∃ t' : State, exec i { s with out := ws } = .next t' ∧ { t' with out := t.out } = t

/-- The invariant of R28 (a) to (d) with the word range of R83: every step keeps it. -/
def Obligations.StepKeepsInvariant : Prop :=
  ∀ s t : State, s.Inv → step s = .next t → t.Inv

/-- The reset state meets the invariant (R28, R29). -/
def Obligations.ResetMeetsInvariant : Prop := State.reset.Inv

/-! ### The stages -/

/-- OSC_ADVANCE within one cycle (R66): p's integer part is 0 or 1, the subtraction is exact, the new PHASE is in [0, 1) again, and a zero increment leaves it as it was. -/
def Obligations.PhaseStaysInCycle : Prop :=
  ∀ p inc : F32, isPhase p = true → isPhase inc = true →
    (truncInt (fadd p inc) = 0 ∨ truncInt (fadd p inc) = 1) ∧
    value (nextPhase p inc) = value (fadd p inc) - truncInt (fadd p inc) ∧
    isPhase (nextPhase p inc) = true ∧
    (value inc = 0 → value (nextPhase p inc) = value p)

/-- |OSC_NEXT| ≤ 1 on its domain (R62). -/
def Obligations.ExcitationStaysInUnit : Prop :=
  ∀ (p : F32) (note : BitVec 8) (n : Nat), isPhase p = true →
    inUnit (oscNext Config.chip p note (Config.chip.noise n)) = true

/-- |CLIP(c)| ≤ 1 for every number, infinities included (R78). -/
def Obligations.ClipStaysInUnit : Prop :=
  ∀ x : F32, isNaN x = false → inUnit (clip x) = true

/-- CLIP (R78): the cubic of the pseudocode on [-1, 1], ±1 exactly for every |c| ≥ 1, +0 for both zeros, odd as numbers, and a NaN stays a NaN that becomes the word 0 (R78, R79). -/
def Obligations.ClipCubicAndCorners : Prop :=
  (∀ x : F32, fle 0xBF800000#32 x = true → fle x 0x3F800000#32 = true →
    clip x = fmul (fsub x (fmul 0x3E99999A#32 (fmul (fmul x x) x))) 0x3FB6DB6E#32) ∧
  (∀ x : F32, fle 0x3F800000#32 x = true → clip x = 0x3F800000#32) ∧
  (∀ x : F32, fle x 0xBF800000#32 = true → clip x = 0xBF800000#32) ∧
  clip 0x00000000#32 = 0x00000000#32 ∧ clip 0x80000000#32 = 0x00000000#32 ∧
  (∀ x : F32, isNaN x = false → fkey (clip (fneg x)) = -fkey (clip x)) ∧
  (∀ x : F32, isNaN x = true → isNaN (clip x) = true ∧ toQ31 (clip x) = 0#32)

/-- TO_Q31 (R79): NaN to 0, else the exact product truncated; never 0x80000000. -/
def Obligations.Q31IsTruncatedExactProduct : Prop :=
  (∀ o : F32, isNaN o = true → toQ31 o = 0#32) ∧
  (∀ o : F32, isNaN o = false → (toQ31 o).toInt = ratTrunc (value (clamp1 o) * (2 ^ 31 - 1))) ∧
  (∀ o : F32, toQ31 o ≠ 0x80000000#32) ∧
  toQ31 0x3F800000#32 = 0x7FFFFFFF#32 ∧ toQ31 0xBF800000#32 = 0x80000001#32 ∧
  toQ31 0x3F000000#32 = 0x3FFFFFFF#32 ∧ toQ31 0xBF000000#32 = 0xC0000001#32 ∧
  toQ31 0x00000000#32 = 0#32 ∧ toQ31 0x80000000#32 = 0#32 ∧
  toQ31 0x30000000#32 = 0#32 ∧ toQ31 0x30800000#32 = 1#32

/-- The gain of every resonance is at least 1, and a gain of exactly 1 passes every number through unchanged (R77). -/
def Obligations.GainNeverAttenuates : Prop :=
  (∀ v : BitVec 16, fle 0x3F800000#32 (gainOf (resonanceQ v)) = true) ∧
  (∀ m : F32, isNaN m = false → gainComp 0x3F800000#32 m = m) ∧
  gainOf 0x41800000#32 = 0x404403F6#32

/-! ### binary32 arithmetic -/

/-- Sums and differences of finite numbers are the exact result rounded once (R9). -/
def Obligations.SumsAreCorrectlyRounded : Prop :=
  ∀ x y : F32, isFinite x = true → isFinite y = true →
    RoundsTo (value x + value y) (fadd x y) ∧ RoundsTo (value x - value y) (fsub x y)

/-- Products of finite numbers are the exact result rounded once (R9). -/
def Obligations.ProductsAreCorrectlyRounded : Prop :=
  ∀ x y : F32, isFinite x = true → isFinite y = true → RoundsTo (value x * value y) (fmul x y)

/-- Quotients of finite numbers by nonzero ones are the exact result rounded once (R9). -/
def Obligations.QuotientsAreCorrectlyRounded : Prop :=
  ∀ x y : F32, isFinite x = true → isFinite y = true → value y ≠ 0 →
    RoundsTo (value x / value y) (fdiv x y)

/-- Negation is exact, floor and trunc are the exact integers, and an integer of at most 24 bits is an exact operand (R9, R10). -/
def Obligations.ExactFunctionsAreExact : Prop :=
  (∀ x : F32, isFinite x = true → value (fneg x) = -value x) ∧
  (∀ x : F32, isFinite x = true → floorInt x = ⌊value x⌋ ∧ truncInt x = ratTrunc (value x)) ∧
  (∀ n : Int, n.natAbs < 2 ^ 24 → isFinite (f32OfInt n) = true ∧ value (f32OfInt n) = n)

/-! ### Configuration and the host's memory -/

/-- The codes the machine's configuration is made of stand for exactly the admitted numbers of R7, so no admitted preset, BLSAW value, noise draw or increment is left out. -/
def Obligations.CodesAreTheAdmittedNumbers : Prop :=
  (∀ w : F32, inOpenPi w = true ↔ ∃ m, Config.presetWord m = w) ∧
  (∀ x : F32, inUnit x = true ↔ ∃ m, Config.unitWord m = x) ∧
  (∀ x : F32, isPhase x = true ↔ ∃ m, Config.phaseWord m = x)

/-- A host stores word n of OUT at byte offset 4n, little-endian with bits 7:0 first (R33). The big-endian clauses are the model's choice (log entry 24): no rule names an order but little-endian. -/
def Obligations.HostBytesOfOutWords : Prop :=
  ∀ (ws : List Word), (hostBytes .little ws).length = 4 * ws.length ∧
    (hostBytes .big ws).length = 4 * ws.length ∧
    ∀ (n k : Nat) (w : Word), ws[n]? = some w → k < 4 →
      (hostBytes .little ws)[4 * n + k]? = some (w.extractLsb' (8 * k) 8) ∧
      (hostBytes .big ws)[4 * n + k]? = some (w.extractLsb' (8 * (3 - k)) 8)
end

