-- ==== Sys2Proof/Laws/Float.lean ====
section
/-! SUPPORT. Small facts about binary32 words: sign and magnitude, packing, negation, and the representation of a finite word in units of 2^-149. -/

namespace Sys2Proof.Machine

@[simp] theorem whenKnown_eq {α : Type} (x : F32) (v : α) : whenKnown x v = v := by
  unfold whenKnown
  split <;> rfl

theorem fadd_eq (x y : F32) : fadd x y = sumAs .add x y x y := by
  unfold fadd
  simp only [whenKnown_eq]

theorem fsub_eq (x y : F32) : fsub x y = sumAs .sub x y x (fneg y) := by
  unfold fsub
  simp only [whenKnown_eq]

theorem fle_iff (x y : F32) : fle x y = true ↔ isNaN x = false ∧ isNaN y = false ∧ fkey x ≤ fkey y := by
  simp [fle, and_assoc]

theorem flt_iff (x y : F32) : flt x y = true ↔ isNaN x = false ∧ isNaN y = false ∧ fkey x < fkey y := by
  simp [flt, and_assoc]

theorem fmag_lt (x : F32) : fmag x < 0x80000000 := Nat.mod_lt _ (by decide)

theorem fsign_eq_decide (x : F32) : fsign x = decide (0x80000000 ≤ x.toNat) := by
  simp [fsign, BitVec.msb_eq_decide]

theorem toNat_eq_sign_mag (x : F32) : x.toNat = (if fsign x then 0x80000000 else 0) + fmag x := by
  have h := x.isLt
  rw [fsign_eq_decide, fmag]
  split <;> (simp_all; omega)

@[simp] theorem toNat_pack {m : Nat} (s : Bool) (h : m < 0x80000000) :
    (pack s m).toNat = (if s then 0x80000000 else 0) + m := by
  cases s <;> simp [pack] <;> omega

@[simp] theorem fmag_pack {m : Nat} (s : Bool) (h : m < 0x80000000) : fmag (pack s m) = m := by
  rw [fmag, toNat_pack s h]
  cases s <;> simp <;> omega

@[simp] theorem fsign_pack {m : Nat} (s : Bool) (h : m < 0x80000000) : fsign (pack s m) = s := by
  rw [fsign_eq_decide, toNat_pack s h]
  cases s <;> simp
  omega

@[simp] theorem pack_sign_mag (x : F32) : pack (fsign x) (fmag x) = x := by
  apply BitVec.eq_of_toNat_eq
  rw [toNat_pack _ (fmag_lt x), ← toNat_eq_sign_mag]

theorem pack_inj {x y : F32} (hs : fsign x = fsign y) (hm : fmag x = fmag y) : x = y := by
  rw [← pack_sign_mag x, ← pack_sign_mag y, hs, hm]

@[simp] theorem fsign_fneg (x : F32) : fsign (fneg x) = !fsign x := by
  rw [fsign, fneg, BitVec.msb_xor, show (0x80000000#32).msb = true from by decide, Bool.xor_true, fsign]

@[simp] theorem fmag_fneg (x : F32) : fmag (fneg x) = fmag x := by
  have h : (fneg x).toNat % 2 ^ 31 = x.toNat % 2 ^ 31 := by
    rw [fneg, BitVec.toNat_xor, Nat.xor_mod_two_pow]
    simp
  simpa [fmag] using h

@[simp] theorem fneg_fneg (x : F32) : fneg (fneg x) = x :=
  pack_inj (by simp) (by simp)

@[simp] theorem isNaN_fneg (x : F32) : isNaN (fneg x) = isNaN x := by simp [isNaN]

@[simp] theorem units_fneg (x : F32) : units (fneg x) = units x := by simp [units]

@[simp] theorem sunits_fneg (x : F32) : sunits (fneg x) = -sunits x := by
  cases h : fsign x <;> simp [sunits, h]

@[simp] theorem fkey_fneg (x : F32) : fkey (fneg x) = -fkey x := by
  cases h : fsign x <;> simp [fkey, h]

theorem roundMag_le_inf (n d : Nat) : roundMag n d ≤ 0x7F800000 := Nat.min_le_right _ _

theorem roundMag_lt (n d : Nat) : roundMag n d < 0x80000000 :=
  Nat.lt_of_le_of_lt (roundMag_le_inf n d) (by decide)

@[simp] theorem fmag_roundSigned (s : Bool) (n d : Nat) : fmag (roundSigned s n d) = roundMag n d :=
  fmag_pack s (roundMag_lt n d)

@[simp] theorem fsign_roundSigned (s : Bool) (n d : Nat) : fsign (roundSigned s n d) = s :=
  fsign_pack s (roundMag_lt n d)

theorem nanResult_isNaN (op : FOp) (x y : F32) : isNaN (nanResult op x y) = true := by
  have h := (Config.nanCode op x y).2.isLt
  rw [nanResult, isNaN, fmag_pack _ (by omega)]
  exact decide_eq_true (by omega)

theorem units_eq_zero_iff (x : F32) : units x = 0 ↔ fmag x = 0 := by
  unfold units
  split
  · exact Iff.rfl
  · rename_i h
    have h1 : 0 < 2 ^ (fmag x / 2 ^ 23 - 1) := Nat.two_pow_pos _
    constructor
    · intro h2
      rcases Nat.mul_eq_zero.mp h2 with h3 | h3 <;> omega
    · intro h2
      simp [h2] at h

/-- A word of magnitude m below infinity is a significand below 2^24 times a power of two: m itself where it is subnormal, else the fraction with its leading one. -/
theorem units_of_small {x : F32} (h : fmag x < 2 ^ 23) : units x = fmag x := by
  have h0 : fmag x / 2 ^ 23 = 0 := Nat.div_eq_of_lt h
  simp only [units, h0, if_true]

theorem units_of_normal {x : F32} (h : 2 ^ 23 ≤ fmag x) :
    units x = (fmag x % 2 ^ 23 + 2 ^ 23) * 2 ^ (fmag x / 2 ^ 23 - 1) := by
  have h0 : fmag x / 2 ^ 23 ≠ 0 := by
    have := Nat.div_pos h (by decide : 0 < 2 ^ 23)
    omega
  rw [units, if_neg h0]

/-- Rounding is exact on a number that is a binary32 already. -/
theorem roundMag_units {x : F32} (h : isFinite x = true) : roundMag (units x) 1 = fmag x := by
  have hfin : fmag x < 0x7F800000 := of_decide_eq_true h
  by_cases hs : fmag x < 2 ^ 23
  · rw [units_of_small hs]
    have hk : Nat.log2 (fmag x) - 23 = 0 := by
      by_cases h0 : fmag x = 0
      · rw [h0]; decide
      · have := (Nat.log2_lt h0).mpr hs
        omega
    simp only [roundMag, Nat.div_one, hk, Nat.pow_zero, Nat.mul_one, Nat.mod_one]
    simp
    omega
  · have hn : 2 ^ 23 ≤ fmag x := Nat.le_of_not_lt hs
    rw [units_of_normal hn]
    have he : 1 ≤ fmag x / 2 ^ 23 := (Nat.one_le_div_iff (by decide)).mpr hn
    have hdiv := Nat.div_add_mod (fmag x) (2 ^ 23)
    have hfr : fmag x % 2 ^ 23 < 2 ^ 23 := Nat.mod_lt _ (by decide)
    generalize hE : fmag x / 2 ^ 23 = e at *
    generalize hF : fmag x % 2 ^ 23 = fr at *
    have hlog : Nat.log2 ((fr + 2 ^ 23) * 2 ^ (e - 1)) = 23 + (e - 1) := by
      have hp : 0 < 2 ^ (e - 1) := Nat.two_pow_pos _
      have hne : (fr + 2 ^ 23) * 2 ^ (e - 1) ≠ 0 := Nat.mul_ne_zero (by omega) (by omega)
      apply (Nat.log2_eq_iff hne).mpr
      constructor
      · rw [Nat.pow_add]
        exact Nat.mul_le_mul_right _ (by omega)
      · rw [show 23 + (e - 1) + 1 = 24 + (e - 1) by omega, Nat.pow_add]
        exact Nat.mul_lt_mul_of_pos_right (by omega) hp
    simp only [roundMag, Nat.div_one, hlog, Nat.one_mul,
      show 23 + (e - 1) - 23 = e - 1 by omega, Nat.mul_mod_left,
      Nat.mul_div_cancel _ (Nat.two_pow_pos (e - 1))]
    have hp : 0 < 2 ^ (e - 1) := Nat.two_pow_pos _
    rw [if_neg (by omega)]
    omega

/-- A finite sum that is a binary32 already is that binary32. -/
theorem roundSigned_units {x : F32} (h : isFinite x = true) (s : Bool) :
    roundSigned s (units x) 1 = pack s (fmag x) := by
  rw [roundSigned, roundMag_units h]

end Sys2Proof.Machine
end

