-- ==== Sys2Proof/Laws/Config.lean ====
section
/-! SUPPORT. The machine's own configuration is admitted (spec/00_scope.md R7, spec/42_oscillator.md R64): each code stands for a number in its range. -/

namespace Sys2Proof.Machine

theorem isNaN_eq_false {x : F32} (h : fmag x ≤ 0x7F800000) : isNaN x = false :=
  decide_eq_false (by omega)

theorem fle_of_fkey {x y : F32} (hx : fmag x ≤ 0x7F800000) (hy : fmag y ≤ 0x7F800000)
    (h : fkey x ≤ fkey y) : fle x y = true := by
  simp [fle, isNaN_eq_false hx, isNaN_eq_false hy, h]

theorem flt_of_fkey {x y : F32} (hx : fmag x ≤ 0x7F800000) (hy : fmag y ≤ 0x7F800000)
    (h : fkey x < fkey y) : flt x y = true := by
  simp [flt, isNaN_eq_false hx, isNaN_eq_false hy, h]

/-- A nonnegative word below 2^31 has itself as magnitude and key. -/
theorem fmag_ofNat {m : Nat} (h : m < 0x80000000) : fmag (BitVec.ofNat 32 m) = m := by
  simpa [pack] using fmag_pack false h

theorem fkey_ofNat {m : Nat} (h : m < 0x80000000) : fkey (BitVec.ofNat 32 m) = m := by
  have hs : fsign (BitVec.ofNat 32 m) = false := by simpa [pack] using fsign_pack false h
  simp [fkey, hs, fmag_ofNat h]

/-- The words from 1 to b are the numbers above 0 and at most the one of b. -/
theorem succ_in_range {m b : Nat} (hm : m < b) (hb : b ≤ 0x7F800000) :
    (flt F_ZERO (BitVec.ofNat 32 (m + 1)) && fle (BitVec.ofNat 32 (m + 1)) (BitVec.ofNat 32 b)) = true := by
  have h : m + 1 < 0x80000000 := by omega
  have h' : b < 0x80000000 := by omega
  rw [Bool.and_eq_true]
  constructor
  · apply flt_of_fkey (by decide) (by rw [fmag_ofNat h]; omega)
    rw [fkey_ofNat h, show fkey F_ZERO = 0 from by decide]
    omega
  · apply fle_of_fkey (by rw [fmag_ofNat h]; omega) (by rw [fmag_ofNat h']; omega)
    rw [fkey_ofNat h, fkey_ofNat h']
    omega

theorem presetWord_inOpenPi (m : Fin 0x40490FDA) : inOpenPi (Config.presetWord m) = true :=
  succ_in_range m.isLt (by decide)

theorem unitWord_inUnit (m : Bool × Fin 0x3F800001) : inUnit (Config.unitWord m) = true := by
  obtain ⟨s, v, hv⟩ := m
  have h : v < 0x80000000 := by omega
  rw [inUnit, Config.unitWord, Bool.and_eq_true]
  have hk : fkey (pack s v) = if s then -(v : Int) else v := by
    simp only [fkey, fsign_pack s h, fmag_pack s h]
  constructor
  · apply fle_of_fkey (by decide) (by rw [fmag_pack s h]; omega)
    rw [hk, show fkey F_NEG_ONE = -0x3F800000 from by decide]
    split <;> omega
  · apply fle_of_fkey (by rw [fmag_pack s h]; omega) (by decide)
    rw [hk, show fkey F_ONE = 0x3F800000 from by decide]
    split <;> omega

theorem phaseWord_isPhase (m : Fin 0x3F800001) : isPhase (Config.phaseWord m) = true := by
  have hm := m.isLt
  unfold Config.phaseWord
  split
  · decide
  · have h : m.val < 0x80000000 := by omega
    rw [isPhase, Bool.and_eq_true]
    constructor
    · apply fle_of_fkey (by decide) (by rw [fmag_ofNat h]; omega)
      rw [fkey_ofNat h, show fkey F_ZERO = 0 from by decide]
      omega
    · apply flt_of_fkey (by rw [fmag_ofNat h]; omega) (by decide)
      rw [fkey_ofNat h, show fkey F_ONE = 0x3F800000 from by decide]
      omega

end Sys2Proof.Machine

theorem Sys2Proof.Config.chip_admitted : Sys2Proof.Config.Admitted Sys2Proof.Config.chip where
  preset _ _ := Sys2Proof.Machine.presetWord_inOpenPi _
  blsaw p note h := by
    show Sys2Proof.Machine.inUnit (if Sys2Proof.Machine.isPhase p then _ else _) = true
    rw [if_pos h]
    exact Sys2Proof.Machine.unitWord_inUnit _
  pitchInc _ _ := Sys2Proof.Machine.phaseWord_isPhase _
  noise _ := Sys2Proof.Machine.unitWord_inUnit _
end

