-- ==== Sys2Proof/Laws/State.lean ====
section
/-! SUPPORT. One lemma per field for each named update of State, true by rfl, so that no proof unfolds a record update. -/

namespace Sys2Proof.Machine

/-! ### `takeNoise` writes its counter only -/
@[simp] theorem takeNoise_bq0 (s : State) : (takeNoise s).bq0 = s.bq0 := rfl
@[simp] theorem takeNoise_bq1 (s : State) : (takeNoise s).bq1 = s.bq1 := rfl
@[simp] theorem takeNoise_phase (s : State) : (takeNoise s).phase = s.phase := rfl
@[simp] theorem takeNoise_f0 (s : State) : (takeNoise s).f0 = s.f0 := rfl
@[simp] theorem takeNoise_f1 (s : State) : (takeNoise s).f1 = s.f1 := rfl
@[simp] theorem takeNoise_q (s : State) : (takeNoise s).q = s.q := rfl
@[simp] theorem takeNoise_g (s : State) : (takeNoise s).g = s.g := rfl
@[simp] theorem takeNoise_randFlag (s : State) : (takeNoise s).randFlag = s.randFlag := rfl
@[simp] theorem takeNoise_out (s : State) : (takeNoise s).out = s.out := rfl
@[simp] theorem takeNoise_cmds (s : State) : (takeNoise s).cmds = s.cmds := rfl
@[simp] theorem takeNoise_noiseCount (s : State) : (takeNoise s).noiseCount = s.noiseCount + 1 := rfl
@[simp] theorem takeNoise_vowelCount (s : State) : (takeNoise s).vowelCount = s.vowelCount := rfl
@[simp] theorem takeNoise_coefCount (s : State) : (takeNoise s).coefCount = s.coefCount := rfl
/-! ### `takeVowel` writes its counter only -/
@[simp] theorem takeVowel_bq0 (s : State) : (takeVowel s).bq0 = s.bq0 := rfl
@[simp] theorem takeVowel_bq1 (s : State) : (takeVowel s).bq1 = s.bq1 := rfl
@[simp] theorem takeVowel_phase (s : State) : (takeVowel s).phase = s.phase := rfl
@[simp] theorem takeVowel_f0 (s : State) : (takeVowel s).f0 = s.f0 := rfl
@[simp] theorem takeVowel_f1 (s : State) : (takeVowel s).f1 = s.f1 := rfl
@[simp] theorem takeVowel_q (s : State) : (takeVowel s).q = s.q := rfl
@[simp] theorem takeVowel_g (s : State) : (takeVowel s).g = s.g := rfl
@[simp] theorem takeVowel_randFlag (s : State) : (takeVowel s).randFlag = s.randFlag := rfl
@[simp] theorem takeVowel_out (s : State) : (takeVowel s).out = s.out := rfl
@[simp] theorem takeVowel_cmds (s : State) : (takeVowel s).cmds = s.cmds := rfl
@[simp] theorem takeVowel_noiseCount (s : State) : (takeVowel s).noiseCount = s.noiseCount := rfl
@[simp] theorem takeVowel_vowelCount (s : State) : (takeVowel s).vowelCount = s.vowelCount + 1 := rfl
@[simp] theorem takeVowel_coefCount (s : State) : (takeVowel s).coefCount = s.coefCount := rfl
/-! ### `bankNext` writes the two filters only -/
@[simp] theorem bankNext_bq0 (x : F32) (s : State) : (bankNext x s).bq0 = processNext s.bq0 x := rfl
@[simp] theorem bankNext_bq1 (x : F32) (s : State) : (bankNext x s).bq1 = processNext s.bq1 x := rfl
@[simp] theorem bankNext_phase (x : F32) (s : State) : (bankNext x s).phase = s.phase := rfl
@[simp] theorem bankNext_f0 (x : F32) (s : State) : (bankNext x s).f0 = s.f0 := rfl
@[simp] theorem bankNext_f1 (x : F32) (s : State) : (bankNext x s).f1 = s.f1 := rfl
@[simp] theorem bankNext_q (x : F32) (s : State) : (bankNext x s).q = s.q := rfl
@[simp] theorem bankNext_g (x : F32) (s : State) : (bankNext x s).g = s.g := rfl
@[simp] theorem bankNext_randFlag (x : F32) (s : State) : (bankNext x s).randFlag = s.randFlag := rfl
@[simp] theorem bankNext_out (x : F32) (s : State) : (bankNext x s).out = s.out := rfl
@[simp] theorem bankNext_cmds (x : F32) (s : State) : (bankNext x s).cmds = s.cmds := rfl
@[simp] theorem bankNext_noiseCount (x : F32) (s : State) : (bankNext x s).noiseCount = s.noiseCount := rfl
@[simp] theorem bankNext_vowelCount (x : F32) (s : State) : (bankNext x s).vowelCount = s.vowelCount := rfl
@[simp] theorem bankNext_coefCount (x : F32) (s : State) : (bankNext x s).coefCount = s.coefCount := rfl
/-! ### `oscAdvance` writes PHASE only -/
@[simp] theorem oscAdvance_bq0 (inc : F32) (s : State) : (oscAdvance inc s).bq0 = s.bq0 := rfl
@[simp] theorem oscAdvance_bq1 (inc : F32) (s : State) : (oscAdvance inc s).bq1 = s.bq1 := rfl
@[simp] theorem oscAdvance_phase (inc : F32) (s : State) : (oscAdvance inc s).phase = nextPhase s.phase inc := rfl
@[simp] theorem oscAdvance_f0 (inc : F32) (s : State) : (oscAdvance inc s).f0 = s.f0 := rfl
@[simp] theorem oscAdvance_f1 (inc : F32) (s : State) : (oscAdvance inc s).f1 = s.f1 := rfl
@[simp] theorem oscAdvance_q (inc : F32) (s : State) : (oscAdvance inc s).q = s.q := rfl
@[simp] theorem oscAdvance_g (inc : F32) (s : State) : (oscAdvance inc s).g = s.g := rfl
@[simp] theorem oscAdvance_randFlag (inc : F32) (s : State) : (oscAdvance inc s).randFlag = s.randFlag := rfl
@[simp] theorem oscAdvance_out (inc : F32) (s : State) : (oscAdvance inc s).out = s.out := rfl
@[simp] theorem oscAdvance_cmds (inc : F32) (s : State) : (oscAdvance inc s).cmds = s.cmds := rfl
@[simp] theorem oscAdvance_noiseCount (inc : F32) (s : State) : (oscAdvance inc s).noiseCount = s.noiseCount := rfl
@[simp] theorem oscAdvance_vowelCount (inc : F32) (s : State) : (oscAdvance inc s).vowelCount = s.vowelCount := rfl
@[simp] theorem oscAdvance_coefCount (inc : F32) (s : State) : (oscAdvance inc s).coefCount = s.coefCount := rfl
/-! ### `streamWrite` writes OUT only -/
@[simp] theorem streamWrite_bq0 (w : Word) (s : State) : (streamWrite w s).bq0 = s.bq0 := rfl
@[simp] theorem streamWrite_bq1 (w : Word) (s : State) : (streamWrite w s).bq1 = s.bq1 := rfl
@[simp] theorem streamWrite_phase (w : Word) (s : State) : (streamWrite w s).phase = s.phase := rfl
@[simp] theorem streamWrite_f0 (w : Word) (s : State) : (streamWrite w s).f0 = s.f0 := rfl
@[simp] theorem streamWrite_f1 (w : Word) (s : State) : (streamWrite w s).f1 = s.f1 := rfl
@[simp] theorem streamWrite_q (w : Word) (s : State) : (streamWrite w s).q = s.q := rfl
@[simp] theorem streamWrite_g (w : Word) (s : State) : (streamWrite w s).g = s.g := rfl
@[simp] theorem streamWrite_randFlag (w : Word) (s : State) : (streamWrite w s).randFlag = s.randFlag := rfl
@[simp] theorem streamWrite_out (w : Word) (s : State) : (streamWrite w s).out = s.out ++ [w] := rfl
@[simp] theorem streamWrite_cmds (w : Word) (s : State) : (streamWrite w s).cmds = s.cmds := rfl
@[simp] theorem streamWrite_noiseCount (w : Word) (s : State) : (streamWrite w s).noiseCount = s.noiseCount := rfl
@[simp] theorem streamWrite_vowelCount (w : Word) (s : State) : (streamWrite w s).vowelCount = s.vowelCount := rfl
@[simp] theorem streamWrite_coefCount (w : Word) (s : State) : (streamWrite w s).coefCount = s.coefCount := rfl
/-! ### `retune` writes the filters (and counts the coefficient draws) only -/
@[simp] theorem retune_phase (c : Config) (s : State) : (retune c s).phase = s.phase := rfl
@[simp] theorem retune_f0 (c : Config) (s : State) : (retune c s).f0 = s.f0 := rfl
@[simp] theorem retune_f1 (c : Config) (s : State) : (retune c s).f1 = s.f1 := rfl
@[simp] theorem retune_q (c : Config) (s : State) : (retune c s).q = s.q := rfl
@[simp] theorem retune_g (c : Config) (s : State) : (retune c s).g = s.g := rfl
@[simp] theorem retune_randFlag (c : Config) (s : State) : (retune c s).randFlag = s.randFlag := rfl
@[simp] theorem retune_out (c : Config) (s : State) : (retune c s).out = s.out := rfl
@[simp] theorem retune_cmds (c : Config) (s : State) : (retune c s).cmds = s.cmds := rfl
@[simp] theorem retune_noiseCount (c : Config) (s : State) : (retune c s).noiseCount = s.noiseCount := rfl
@[simp] theorem retune_vowelCount (c : Config) (s : State) : (retune c s).vowelCount = s.vowelCount := rfl
/-! ### `setFreqs` writes F and the filters only -/
@[simp] theorem setFreqs_phase (c : Config) (w0 w1 : F32) (s : State) : (setFreqs c w0 w1 s).phase = s.phase := rfl
@[simp] theorem setFreqs_f0 (c : Config) (w0 w1 : F32) (s : State) : (setFreqs c w0 w1 s).f0 = w0 := rfl
@[simp] theorem setFreqs_f1 (c : Config) (w0 w1 : F32) (s : State) : (setFreqs c w0 w1 s).f1 = w1 := rfl
@[simp] theorem setFreqs_q (c : Config) (w0 w1 : F32) (s : State) : (setFreqs c w0 w1 s).q = s.q := rfl
@[simp] theorem setFreqs_g (c : Config) (w0 w1 : F32) (s : State) : (setFreqs c w0 w1 s).g = s.g := rfl
@[simp] theorem setFreqs_randFlag (c : Config) (w0 w1 : F32) (s : State) : (setFreqs c w0 w1 s).randFlag = s.randFlag := rfl
@[simp] theorem setFreqs_out (c : Config) (w0 w1 : F32) (s : State) : (setFreqs c w0 w1 s).out = s.out := rfl
@[simp] theorem setFreqs_cmds (c : Config) (w0 w1 : F32) (s : State) : (setFreqs c w0 w1 s).cmds = s.cmds := rfl
@[simp] theorem setFreqs_noiseCount (c : Config) (w0 w1 : F32) (s : State) : (setFreqs c w0 w1 s).noiseCount = s.noiseCount := rfl
@[simp] theorem setFreqs_vowelCount (c : Config) (w0 w1 : F32) (s : State) : (setFreqs c w0 w1 s).vowelCount = s.vowelCount := rfl
/-! ### `frame` writes the filters, PHASE, OUT and the noise counter only -/
@[simp] theorem frame_phase (c : Config) (note : BitVec 8) (inc : F32) (s : State) : (frame c note inc s).phase = nextPhase s.phase inc := rfl
@[simp] theorem frame_f0 (c : Config) (note : BitVec 8) (inc : F32) (s : State) : (frame c note inc s).f0 = s.f0 := rfl
@[simp] theorem frame_f1 (c : Config) (note : BitVec 8) (inc : F32) (s : State) : (frame c note inc s).f1 = s.f1 := rfl
@[simp] theorem frame_q (c : Config) (note : BitVec 8) (inc : F32) (s : State) : (frame c note inc s).q = s.q := rfl
@[simp] theorem frame_g (c : Config) (note : BitVec 8) (inc : F32) (s : State) : (frame c note inc s).g = s.g := rfl
@[simp] theorem frame_randFlag (c : Config) (note : BitVec 8) (inc : F32) (s : State) : (frame c note inc s).randFlag = s.randFlag := rfl
@[simp] theorem frame_cmds (c : Config) (note : BitVec 8) (inc : F32) (s : State) : (frame c note inc s).cmds = s.cmds := rfl
@[simp] theorem frame_noiseCount (c : Config) (note : BitVec 8) (inc : F32) (s : State) : (frame c note inc s).noiseCount = s.noiseCount + 1 := rfl
@[simp] theorem frame_vowelCount (c : Config) (note : BitVec 8) (inc : F32) (s : State) : (frame c note inc s).vowelCount = s.vowelCount := rfl
@[simp] theorem frame_coefCount (c : Config) (note : BitVec 8) (inc : F32) (s : State) : (frame c note inc s).coefCount = s.coefCount := rfl
/-! ### `randVowelState` writes RAND_FLAG only -/
@[simp] theorem randVowelState_bq0 (value : BitVec 16) (s : State) : (randVowelState value s).bq0 = s.bq0 := rfl
@[simp] theorem randVowelState_bq1 (value : BitVec 16) (s : State) : (randVowelState value s).bq1 = s.bq1 := rfl
@[simp] theorem randVowelState_phase (value : BitVec 16) (s : State) : (randVowelState value s).phase = s.phase := rfl
@[simp] theorem randVowelState_f0 (value : BitVec 16) (s : State) : (randVowelState value s).f0 = s.f0 := rfl
@[simp] theorem randVowelState_f1 (value : BitVec 16) (s : State) : (randVowelState value s).f1 = s.f1 := rfl
@[simp] theorem randVowelState_q (value : BitVec 16) (s : State) : (randVowelState value s).q = s.q := rfl
@[simp] theorem randVowelState_g (value : BitVec 16) (s : State) : (randVowelState value s).g = s.g := rfl
@[simp] theorem randVowelState_randFlag (value : BitVec 16) (s : State) : (randVowelState value s).randFlag = randFlagOf value := rfl
@[simp] theorem randVowelState_out (value : BitVec 16) (s : State) : (randVowelState value s).out = s.out := rfl
@[simp] theorem randVowelState_cmds (value : BitVec 16) (s : State) : (randVowelState value s).cmds = s.cmds := rfl
@[simp] theorem randVowelState_noiseCount (value : BitVec 16) (s : State) : (randVowelState value s).noiseCount = s.noiseCount := rfl
@[simp] theorem randVowelState_vowelCount (value : BitVec 16) (s : State) : (randVowelState value s).vowelCount = s.vowelCount := rfl
@[simp] theorem randVowelState_coefCount (value : BitVec 16) (s : State) : (randVowelState value s).coefCount = s.coefCount := rfl

@[simp] theorem processNext_coefs (b : Biquad) (x : F32) : (processNext b x).coefs = b.coefs := rfl

end Sys2Proof.Machine
end

