-- ==== Sys2Proof/Laws/Ops.lean ====
section
/-! SUPPORT. What the shared operations do: SETCOEF within and outside its precondition, RETUNE, the frames of a RENDER, taking a command. -/

namespace Sys2Proof.Machine

/-- SETCOEF within its precondition: the formulas, and no draw. -/
theorem setCoef_of_pre {w q : F32} (h : setCoefPre w q = true) (c : Config) (n : Nat) (b : Biquad) :
    setCoef c w q n b = (⟨bandpass c w q, b.z1, b.z2⟩, n) := if_pos h

/-- SETCOEF outside its precondition: one draw of five words. -/
theorem setCoef_of_not_pre {w q : F32} (h : setCoefPre w q = false) (c : Config) (n : Nat) (b : Biquad) :
    setCoef c w q n b = (⟨c.coefDraw n, b.z1, b.z2⟩, n + 1) := if_neg (by simp [h])

/-- SETCOEF keeps the delay registers (R55). -/
@[simp] theorem setCoef_z1 (c : Config) (w q : F32) (n : Nat) (b : Biquad) :
    (setCoef c w q n b).1.z1 = b.z1 := by
  unfold setCoef
  split <;> rfl

@[simp] theorem setCoef_z2 (c : Config) (w q : F32) (n : Nat) (b : Biquad) :
    (setCoef c w q n b).1.z2 = b.z2 := by
  unfold setCoef
  split <;> rfl

theorem retune_bq0 (c : Config) (s : State) :
    (retune c s).bq0 = (setCoef c s.f0 s.q s.coefCount s.bq0).1 := by simp only [retune]

theorem retune_bq1 (c : Config) (s : State) :
    (retune c s).bq1 =
      (setCoef c s.f1 s.q (setCoef c s.f0 s.q s.coefCount s.bq0).2 s.bq1).1 := by simp only [retune]

theorem retune_coefCount (c : Config) (s : State) :
    (retune c s).coefCount =
      (setCoef c s.f1 s.q (setCoef c s.f0 s.q s.coefCount s.bq0).2 s.bq1).2 := by simp only [retune]

/-- RETUNE writes the formulas' values into BQ[0] where SETCOEF's precondition holds (R59). -/
theorem retune_coefs0 {c : Config} {s : State} (h : setCoefPre s.f0 s.q = true) :
    (retune c s).bq0.coefs = bandpass c s.f0 s.q := by
  rw [retune_bq0, setCoef_of_pre h]

/-- RETUNE writes the formulas' values into BQ[1] where SETCOEF's precondition holds (R59). -/
theorem retune_coefs1 {c : Config} {s : State} (h : setCoefPre s.f1 s.q = true) :
    (retune c s).bq1.coefs = bandpass c s.f1 s.q := by
  rw [retune_bq1, setCoef_of_pre h]

@[simp] theorem retune_bq0_z1 (c : Config) (s : State) : (retune c s).bq0.z1 = s.bq0.z1 := by
  simp only [retune, setCoef_z1]

@[simp] theorem retune_bq0_z2 (c : Config) (s : State) : (retune c s).bq0.z2 = s.bq0.z2 := by
  simp only [retune, setCoef_z2]

@[simp] theorem retune_bq1_z1 (c : Config) (s : State) : (retune c s).bq1.z1 = s.bq1.z1 := by
  simp only [retune, setCoef_z1]

@[simp] theorem retune_bq1_z2 (c : Config) (s : State) : (retune c s).bq1.z2 = s.bq1.z2 := by
  simp only [retune, setCoef_z2]

@[simp] theorem setFreqs_eq (c : Config) (w0 w1 : F32) (s : State) :
    setFreqs c w0 w1 s = retune c { s with f0 := w0, f1 := w1 } := by simp only [setFreqs]

/-- A frame keeps the coefficients (R80). -/
@[simp] theorem frame_bq0 (c : Config) (note : BitVec 8) (inc : F32) (s : State) :
    (frame c note inc s).bq0 =
      processNext s.bq0 (oscNext c s.phase note (c.noise s.noiseCount)) := by
  simp only [frame, streamWrite_bq0, oscAdvance_bq0, bankNext_bq0, takeNoise_bq0, takeNoise_phase]

@[simp] theorem frame_bq1 (c : Config) (note : BitVec 8) (inc : F32) (s : State) :
    (frame c note inc s).bq1 =
      processNext s.bq1 (oscNext c s.phase note (c.noise s.noiseCount)) := by
  simp only [frame, streamWrite_bq1, oscAdvance_bq1, bankNext_bq1, takeNoise_bq1, takeNoise_phase]

/-- The word a frame appends (R80). -/
def frameWord (c : Config) (note : BitVec 8) (s : State) : Word :=
  toQ31 (clip (gainComp s.g (bankOut s (oscNext c s.phase note (c.noise s.noiseCount)))))

@[simp] theorem frame_out (c : Config) (note : BitVec 8) (inc : F32) (s : State) :
    (frame c note inc s).out = s.out ++ [frameWord c note s] := by
  simp only [frame, frameWord, streamWrite_out, oscAdvance_out, bankNext_out, takeNoise_out,
    bankNext_g, takeNoise_g, takeNoise_phase, bankOut, takeNoise_bq0, takeNoise_bq1]

@[simp] theorem frames_zero (c : Config) (note : BitVec 8) (inc : F32) (s : State) :
    frames c note inc 0 s = s := rfl

theorem frames_succ (c : Config) (note : BitVec 8) (inc : F32) (n : Nat) (s : State) :
    frames c note inc (n + 1) s = frames c note inc n (frame c note inc s) := rfl

/-- Whatever a frame keeps, the frames of a RENDER keep. -/
theorem frames_keeps {α : Type} (get : State → α) {c : Config} {note : BitVec 8} {inc : F32}
    (h : ∀ s, get (frame c note inc s) = get s) (n : Nat) (s : State) :
    get (frames c note inc n s) = get s := by
  induction n generalizing s with
  | zero => rfl
  | succ n ih => rw [frames_succ, ih, h]

theorem fetch_nil {s : State} (h : s.cmds = []) : fetch s = none := by
  unfold fetch
  rw [h]

theorem fetch_cons {s : State} {c : Command} {rest : List Command} (h : s.cmds = c :: rest) :
    fetch s = some (decode c, { s with cmds := rest }) := by
  unfold fetch
  rw [h]

end Sys2Proof.Machine
end

