-- ==== Sys2Proof/Laws/PerInstr.lean ====
section
/-! SUPPORT. The per-instruction family OpField: the opcode field of the encoded command word is the command's OP value (spec/30_encoding.md R41, R44), one lemma per constructor of Instr. -/

namespace Sys2Proof.Laws.OpField

/-- OP of each command (R44). -/
def opOf : Instr → BitVec 4
  | .nop => 0x0#4
  | .init _ _ => 0x1#4
  | .render _ _ _ _ => 0x2#4
  | .noteOn _ _ => 0x3#4
  | .noteOff _ _ => 0x4#4
  | .setRandvowel _ => 0x5#4
  | .setShape _ => 0x5#4
  | .setResonance _ => 0x5#4
  | .setpIgnored _ _ => 0x5#4
  | .reserved op _ => op

/-- The encoded word carries the command's OP. -/
def Statement (i : Instr) : Prop := opField (encode i).cmd = opOf i

theorem opField_packNote (op : BitVec 4) (mid : BitVec 12) (hi lo : BitVec 8) :
    opField (packNote op mid hi lo) = op := by
  apply BitVec.eq_of_getLsbD_eq
  intro i hi4
  interval_cases i <;> simp [opField, packNote]

theorem opField_packParam (index : BitVec 8) (value : BitVec 16) :
    opField (packParam index value) = 5#4 := by
  apply BitVec.eq_of_getLsbD_eq
  intro i hi4
  interval_cases i <;> simp [opField, packParam]

theorem nop : Statement .nop := by
  unfold Statement
  decide

theorem init (plat api : BitVec 8) : Statement (.init plat api) := opField_packNote ..

theorem render (frames : BitVec 12) (note bend : BitVec 8) (lfo : Word) :
    Statement (.render frames note bend lfo) := opField_packNote ..

theorem noteOn (note bend : BitVec 8) : Statement (.noteOn note bend) := opField_packNote ..

theorem noteOff (note bend : BitVec 8) : Statement (.noteOff note bend) := opField_packNote ..

theorem setRandvowel (value : BitVec 16) : Statement (.setRandvowel value) := opField_packParam ..

theorem setShape (value : BitVec 16) : Statement (.setShape value) := opField_packParam ..

theorem setResonance (value : BitVec 16) : Statement (.setResonance value) := opField_packParam ..

theorem setpIgnored (index : BitVec 8) (value : BitVec 16) :
    Statement (.setpIgnored index value) := opField_packParam ..

theorem reserved (op : BitVec 4) (imm28 : BitVec 28) : Statement (.reserved op imm28) := by
  apply BitVec.eq_of_getLsbD_eq
  intro i hi4
  interval_cases i <;> simp [opField, packReserved, encode, opOf]

end Sys2Proof.Laws.OpField
end

