-- ==== Sys2Proof/Tests/Slice0.lean ====
section
/-! SUPPORT. The model's own tests: ill-formed terms, command words written out from the encoding tables, the spec's vectors under test configuration T1 (spec/95_test_vectors.md), and a witness for every statement with hypotheses. -/

namespace Sys2Proof.Tests

open Sys2Proof.Machine Sys2Proof.Claims

/-! ### Ill-formed terms are refused -/

theorem test_setpIgnored_index_2_is_ill_formed : ¬ (Instr.setpIgnored 2#8 0#16).WellFormed := by decide

theorem test_reserved_op_5_is_ill_formed : ¬ (Instr.reserved 5#4 0#28).WellFormed := by decide

/-! ### Words written out from R41: OP, then the fields -/

theorem test_decode_nop : decode ⟨0b0000_1010101111001101111011110000#32, 9#32⟩ = .nop := by decide

theorem test_decode_init :
    decode ⟨0b0001_111111111111_00010010_00110100#32, 9#32⟩ = .init 0x12#8 0x34#8 := by decide

theorem test_decode_render :
    decode ⟨0b0010_000000000001_00111100_10000000#32, 0x12345678#32⟩ =
      .render 1#12 60#8 128#8 0x12345678#32 := by decide

theorem test_decode_noteOn :
    decode ⟨0b0011_000000000000_00111100_00000000#32, 9#32⟩ = .noteOn 60#8 0#8 := by decide

theorem test_decode_noteOff :
    decode ⟨0b0100_101010111100_00111100_00000000#32, 9#32⟩ = .noteOff 60#8 0#8 := by decide

theorem test_decode_setRandvowel :
    decode ⟨0b0101_0000_00000000_0000000000000001#32, 9#32⟩ = .setRandvowel 1#16 := by decide

theorem test_decode_setShape :
    decode ⟨0b0101_1111_00000001_0000000000000101#32, 9#32⟩ = .setShape 5#16 := by decide

theorem test_decode_setResonance :
    decode ⟨0b0101_0000_00000010_0000001111111111#32, 9#32⟩ = .setResonance 1023#16 := by decide

theorem test_decode_setpIgnored :
    decode ⟨0b0101_0000_00000111_0000000001100100#32, 9#32⟩ = .setpIgnored 7#8 100#16 := by decide

theorem test_decode_reserved :
    decode ⟨0b1010_0000101010111100110111101111#32, 9#32⟩ = .reserved 10#4 0xABCDEF#28 := by decide

/-- The assembly examples of R48 in spec/95_test_vectors.md section 2.1. -/
theorem test_assemble_text :
    assembleText "RENDER 4, 60, 0".toList = .ok ⟨0x20043C00#32, 0#32⟩ ∧
    assembleText "RSVD 10, 0xABCDEF".toList = .ok ⟨0xA0ABCDEF#32, 0#32⟩ ∧
    assembleText "SET_RESONANCE 1023".toList = .ok ⟨0x500203FF#32, 0#32⟩ ∧
    assembleText "RENDER 4096".toList = .error .outOfRange := by decide +kernel

/-! ### Constants and binary32 -/

/-- The derived constants of R6, computed as D15, D16 and D18 say, and the decimal literals of R9. -/
theorem test_derived_constants :
    fdiv F_ONE (fsub F_ONE C_CLIP) = K_RESCALE ∧ fsub Q_MAX SQRT2 = QSPAN ∧
    fmul SQRT2 (f32OfInt 5) = FIVE_SQRT2 ∧ roundSigned false (3 * 2 ^ 149) 10 = C_CLIP ∧
    roundSigned false (5 * 2 ^ 149) 100 = NOISE_MIX ∧
    roundSigned false (95 * 2 ^ 149) 100 = SAW_MIX := by decide +kernel

/-- BNK-2 and BNK-3: subnormals are kept and a half-way case rounds to even. -/
theorem test_bank_mean_subnormal : bankMean 1#32 0#32 = 0#32 ∧ bankMean 3#32 0#32 = 2#32 := by
  decide +kernel

/-! ### The stages (vectors BQ, OSC, PV, CTL, CLP, Q31) -/

/-- T1 with every noise draw 0 and every vowel draw 2. -/
def t1 : Config := configT1 (fun _ => F_ZERO) (fun _ => 2)

/-- BQ-1. -/
theorem test_bandpass_bq1 :
    bandpass t1 0x3DC3B345#32 SQRT2 =
      ⟨0x3D05A965#32, 0#32, 0xBD05A965#32, 0xBFF68431#32, 0x3F6F4AD4#32⟩ := by decide +kernel

/-- BQ-5, the corner just below π. -/
theorem test_bandpass_bq5 :
    bandpass t1 0x40490FDA#32 SQRT2 =
      ⟨0x33654984#32, 0#32, 0xB3654984#32, 0x40000000#32, 0x3F7FFFFF#32⟩ := by decide +kernel

/-- BQ-9 and BQ-10: PROCESS from a nonzero state, and the -0 of the zero state. -/
theorem test_process_bq9_bq10 :
    let k : Coefs := ⟨0x3D05A965#32, 0#32, 0xBD05A965#32, 0xBFF68431#32, 0x3F6F4AD4#32⟩
    processOut ⟨k, 0x3E800000#32, 0xBE000000#32⟩ F_HALF = 0x3E885A96#32 ∧
    processNext ⟨k, 0x3E800000#32, 0xBE000000#32⟩ F_HALF = ⟨k, 0x3EC69AEA#32, 0xBE87CF03#32⟩ ∧
    processNext ⟨k, 0#32, 0#32⟩ F_ZERO = ⟨k, 0#32, 0x80000000#32⟩ := by decide +kernel

/-- OSC-2, OSC-4, OSC-6 and OSC-8. -/
theorem test_phase_advance :
    nextPhase 0x3F400000#32 0x3F000000#32 = 0x3E800000#32 ∧
    nextPhase 0x3F7FFFFF#32 0x33000000#32 = 0#32 ∧
    nextPhase 0x3F7FFFFF#32 0x32800000#32 = 0x3F7FFFFF#32 ∧
    nextPhase 0x3F666666#32 0x3E4CCCCD#32 = 0x3DCCCCD0#32 := by decide +kernel

/-- OSC-12 and OSC-13. -/
theorem test_oscillator_output :
    oscNext t1 0x3F400000#32 60#8 F_NEG_ONE = 0x3ED99999#32 ∧
    oscNext t1 0x3F7FFFFF#32 60#8 F_ONE = 0x3F7FFFFE#32 := by decide +kernel

/-- OSC-16, OSC-20 and OSC-22. -/
theorem test_pitch_increment :
    oscInc t1 60#8 0#8 = 0x3BB29A62#32 ∧ oscInc t1 127#8 255#8 = 0x3E8DB9B1#32 ∧
    oscInc t1 200#8 0#8 = 0x3E85CD15#32 := by decide +kernel

/-- CLP-2, CLP-4, CLP-9 and CLP-12. -/
theorem test_clip :
    clip 0x80000000#32 = 0#32 ∧ clip F_HALF = 0x3F292493#32 ∧ clip 0x3F7FFFFE#32 = F_ONE ∧
    clip 0xFF800000#32 = F_NEG_ONE := by decide +kernel

/-- Q31-2, Q31-3, Q31-6 and Q31-7. -/
theorem test_to_q31 :
    toQ31 0xBF000000#32 = 0xC0000001#32 ∧ toQ31 0x30000000#32 = 0#32 ∧
    toQ31 F_NEG_ONE = 0x80000001#32 ∧ toQ31 0x3F292493#32 = 0x5492497F#32 := by decide +kernel

/-- The default byte order of R33: byte 0 holds bits 7:0. -/
theorem test_host_bytes :
    hostBytes .little [0x5492497F#32] = [0x7F#8, 0x49#8, 0x92#8, 0x54#8] := by decide

/-! ### Commands under T1, one each -/

/-- The reset state under T1, reached by INIT from a state with every register dirty. -/
def resetT1 : State :=
  initState t1
    { bq0 := ⟨⟨1, 1, 1, 1, 1⟩, 5, 6⟩, bq1 := ⟨⟨1, 1, 1, 1, 1⟩, 7, 8⟩, phase := 9, f0 := 1, f1 := 1,
      q := 1, g := 1, randFlag := true, out := [3], cmds := [], noiseCount := 0, vowelCount := 0,
      coefCount := 0 }

/-- LIF-1. -/
theorem test_init :
    resetT1.bq0 = ⟨⟨0x3D05A965#32, 0#32, 0xBD05A965#32, 0xBFF68431#32, 0x3F6F4AD4#32⟩, 0#32, 0#32⟩ ∧
    resetT1.f1 = 0x3E121AE1#32 ∧ resetT1.q = 0x3FB504F3#32 ∧ resetT1.randFlag = false ∧
    resetT1.phase = 0#32 ∧ resetT1.out = [] ∧ resetT1.coefCount = 0 := by decide +kernel

/-- P1, the first two frames: the second word depends on the delays and the phase the first left. -/
theorem test_render :
    (renderState t1 2#12 60#8 0#8 resetT1).out = [0xF902D561#32, 0xEBDCDF81#32] ∧
    (renderState t1 1#12 60#8 0#8 resetT1).phase = 0x3BB29A62#32 := by decide +kernel

/-- CTL-5 and CTL-8. -/
theorem test_setShape :
    (shapeState t1 512#16 resetT1).f0 = 0x3D11143D#32 ∧
    (shapeState t1 512#16 resetT1).f1 = 0x3E99498C#32 ∧
    (shapeState t1 1023#16 resetT1).f0 = 0x3D20D97C#32 ∧
    (shapeState t1 1023#16 resetT1).f1 = 0x3DE93B5A#32 := by decide +kernel

/-- CTL-13 and P4, statement 2. -/
theorem test_setResonance :
    (resonanceState t1 512#16 resetT1).q = 0x410B6D82#32 ∧
    (resonanceState t1 512#16 resetT1).g = 0x4002127F#32 ∧
    (resonanceState t1 1023#16 resetT1).bq1.coefs.a1 = 0xBFFC4710#32 := by decide +kernel

/-- CTL-19. -/
theorem test_setRandvowel :
    (randVowelState 0x8000#16 resetT1).randFlag = true ∧ (randVowelState 0#16 resetT1).randFlag = false := by
  decide +kernel

/-- CTL-20 (the draw is 2) and CTL-21. -/
theorem test_noteOn :
    (noteOnState t1 { resetT1 with randFlag := true }).f1 = 0x3E997A2F#32 ∧
    (noteOnState t1 { resetT1 with randFlag := true }).bq0.coefs.a1 = 0xBFFCAEF0#32 ∧
    noteOnState t1 resetT1 = resetT1 := by decide +kernel

/-- OP 0x2 with FRAMES 0 as the table gives RENDER's word: the next step from reset runs it. -/
theorem test_withFetchWord :
    step (State.reset.withFetchWord 32 0x20000000) = exec (.render 0#12 0#8 0#8 0#32) State.reset := rfl

/-! ### Witnesses: the hypotheses of each statement can be met -/

theorem test_witness_next_command :
    ({ State.reset with cmds := [⟨0#32, 0#32⟩] } : State).cmds = ⟨0#32, 0#32⟩ :: [] := rfl

theorem test_witness_no_command : State.reset.cmds = [] := rfl

theorem test_witness_opcode_map_fields :
    (0x5003FFFF : Nat) / 2 ^ 28 = 5 ∧ (0x5003FFFF : Nat) / 2 ^ 16 % 2 ^ 8 = 3 ∧
    (0x60000000 : Nat) / 2 ^ 28 = 6 := by decide

theorem test_witness_wellFormed :
    (Instr.setpIgnored 3#8 0#16).WellFormed ∧ (Instr.reserved 6#4 0#28).WellFormed := by decide

theorem test_witness_ignored_bits :
    (0x5F010005#32 &&& significantBits (opField 0x5F010005#32) =
      0x50010005#32 &&& significantBits (opField 0x5F010005#32)) ∧
    opField 0x5F010005#32 ≠ 2#4 := by decide

theorem test_witness_noop_words :
    0x0ABCDEF0#32 &&& 0xF0000000#32 = 0x00000000#32 ∧ 0x4ABC3C00#32 &&& 0xF0000000#32 = 0x40000000#32 ∧
    0x50030000#32 &&& 0xF0000000#32 = 0x50000000#32 ∧ 3 ≤ ((0x50030000#32).extractLsb' 16 8).toNat ∧
    0x60000000#32 &&& 0xE0000000#32 = 0x60000000#32 ∧ 0xFFFFFFFF#32 &&& 0x80000000#32 = 0x80000000#32 := by
  decide

theorem test_witness_command_words :
    0x5F000001#32 &&& 0xF0FF0000#32 = 0x50000000#32 ∧ 0x5F010005#32 &&& 0xF0FF0000#32 = 0x50010000#32 ∧
    0x500203FF#32 &&& 0xF0FF0000#32 = 0x50020000#32 ∧ 0x30003C00#32 &&& 0xF0000000#32 = 0x30000000#32 ∧
    0x1FFF1234#32 &&& 0xF0000000#32 = 0x10000000#32 ∧ 0x2FFF7FFF#32 &&& 0xF0000000#32 = 0x20000000#32 := by
  decide

theorem test_witness_rsvd_word : 6 ≤ (⟨0xA0ABCDEF#32, 0#32⟩ : Command).cmd.toNat / 2 ^ 28 := by decide

theorem test_witness_shape_ends : (0#16).toNat = 0 ∧ 1023 ≤ (1023#16).toNat := by decide

theorem test_witness_flag_values :
    State.reset.randFlag = false ∧ ({ State.reset with randFlag := true } : State).randFlag = true ∧
    flt 0x00000000#32 ({ State.reset with randFlag := true } : State).q = true := ⟨rfl, rfl, by decide⟩

theorem test_witness_frequencies_in_range :
    inOpenPi ({ State.reset with f0 := 0x3DC3B345#32, f1 := 0x40490FDA#32 } : State).f0 = true ∧
    inOpenPi ({ State.reset with f0 := 0x3DC3B345#32, f1 := 0x40490FDA#32 } : State).f1 = true := by
  constructor <;> decide

/-- An admitted configuration: constant presets, a silent sawtooth, a zero increment, a constant sine and cosine. -/
def quietConfig (w : F32) : Config where
  preset _ _ := w
  blsaw _ _ := F_ZERO
  pitchInc _ _ := F_ZERO
  sin _ := F_HALF
  cos _ := F_ZERO
  outByteOrder := .little
  noise _ := F_ZERO
  vowel _ := 0
  coefDraw _ := ⟨F_ZERO, F_ZERO, F_ZERO, F_ZERO, F_ZERO⟩

theorem test_witness_admitted : (quietConfig 0x3D0C3A9B#32).Admitted where
  preset _ _ := show inOpenPi 0x3D0C3A9B#32 = true by decide
  blsaw _ _ _ := show inUnit F_ZERO = true by decide
  pitchInc _ _ := show isPhase F_ZERO = true by decide
  noise _ := show inUnit F_ZERO = true by decide

/-- A sine and a cosine that R90 holds for: at the ends of the ranges, and inside the range of T1's reference. -/
theorem test_witness_sine_values :
    flt 0x00000000#32 0x7F7FFFFF#32 = true ∧ isFinite 0x7F7FFFFF#32 = true ∧
    fle 0xFEFFFFFF#32 0xFEFFFFFF#32 = true ∧ fle 0xFEFFFFFF#32 0x7EFFFFFF#32 = true ∧
    fle 0x7EFFFFFF#32 0x7EFFFFFF#32 = true ∧
    flt 0x00000000#32 0x34222169#32 = true ∧ isFinite 0x34222169#32 = true ∧
    fle 0xFEFFFFFF#32 0xBF800000#32 = true ∧ fle 0xBF800000#32 0x7EFFFFFF#32 = true ∧
    inSineRange 0x34222169#32 = true ∧ inUnit 0xBF800000#32 = true := by
  decide

theorem test_witness_design_range :
    inOpenPi 0x00000001#32 = true ∧ inOpenPi BELOW_PI = true ∧
    fle 0x3FB504F3#32 0x3FB504F3#32 = true ∧ fle 0x3FB504F3#32 0x41800000#32 = true ∧
    fle 0x41800000#32 0x41800000#32 = true := by
  decide

theorem test_witness_positive_q : flt 0x00000000#32 State.reset.q = true := by decide

theorem test_witness_split : (4094#12).toNat + (1#12).toNat < 4096 ∧ (0#12).toNat + (0#12).toNat < 4096 := by
  decide

theorem test_witness_same_render_inputs :
    SameRenderInputs State.reset { State.reset with q := Q_MAX, f0 := F_ONE, randFlag := true, out := [7#32] } :=
  ⟨rfl, rfl, rfl, rfl, rfl⟩

theorem test_witness_exec_next : exec (.setRandvowel 1#16) State.reset =
    .next (randVowelState 1#16 State.reset) := rfl

/-- The invariant is met by a state other than reset, from which a step answers a next state. -/
theorem test_witness_inv : ({ State.reset with randFlag := true, out := [0x7FFFFFFF#32] } : State).Inv where
  coefs0 _ := rfl
  coefs1 _ := rfl
  qLow := by show fle SQRT2 SQRT2 = true; decide
  qHigh := by show fle SQRT2 Q_MAX = true; decide
  gain := by show F_ONE = gainOf SQRT2; decide +kernel
  phase := by show isPhase F_ZERO = true; decide
  out := by
    intro w hw
    simp only [List.mem_singleton] at hw
    subst hw
    decide

theorem test_witness_inv_step :
    step { State.reset with randFlag := true, out := [0x7FFFFFFF#32] } =
      .next { State.reset with randFlag := true, out := [0x7FFFFFFF#32] } := rfl

theorem test_witness_phases :
    isPhase 0x3F7FFFFF#32 = true ∧ isPhase 0x33000000#32 = true ∧ isPhase F_ZERO = true ∧ value F_ZERO = 0 := by
  refine ⟨by decide, by decide, by decide, ?_⟩
  have h : sunits F_ZERO = 0 := by decide
  simp [value, h]

theorem test_witness_clip_ranges :
    fle 0x3F800000#32 0x7F800000#32 = true ∧ fle 0xFF800000#32 0xBF800000#32 = true ∧
    fle 0xBF800000#32 0x3F800000#32 = true ∧ isNaN 0x7F800000#32 = false ∧ isNaN 0x7FC00000#32 = true := by
  decide

theorem test_witness_finite :
    isFinite 0x7F7FFFFF#32 = true ∧ isFinite 0x80000001#32 = true ∧ value F_ONE ≠ 0 := by
  refine ⟨by decide, by decide, ?_⟩
  have h : sunits F_ONE = 2 ^ 149 := by decide
  simp [value, h]

theorem test_witness_small_integer : (-16777215 : Int).natAbs < 2 ^ 24 := by decide

theorem test_witness_host_word : ([0x5492497F#32] : List Word)[0]? = some 0x5492497F#32 ∧ 3 < 4 := by decide

end Sys2Proof.Tests
end

section
/-! SUPPORT. What each command leaves, as rules the statements about the state are proved from: the state a command answers, the frames of a RENDER, NOTE_ON by its flag, and INIT as the reset state (spec/10_state.md R26, R29). -/

namespace Sys2Proof.Machine

/-! ### The state each command leaves -/

/-- The state a command leaves: every command completes (R88), so it is a function of the state before. -/
@[simp] def execState : Instr → State → State
  | .nop, s => s
  | .init _ _, s => initState Config.chip s
  | .render n note bend _, s => renderState Config.chip n note bend s
  | .noteOn _ _, s => noteOnState Config.chip s
  | .noteOff _ _, s => s
  | .setRandvowel value, s => randVowelState value s
  | .setShape value, s => shapeState Config.chip value s
  | .setResonance value, s => resonanceState Config.chip value s
  | .setpIgnored _ _, s => s
  | .reserved _ _, s => s

theorem exec_eq_next (i : Instr) (s : State) : exec i s = .next (execState i s) := by
  cases i <;> rfl

theorem exec_eq_next_iff {i : Instr} {s t : State} : exec i s = .next t ↔ execState i s = t := by
  rw [exec_eq_next, Host.Outcome.next.injEq]

/-! ### RENDER writes the delay registers, PHASE, OUT and the noise counter only -/

section
variable (c : Config) (n : BitVec 12) (note bend : BitVec 8) (s : State)

@[simp] theorem renderState_f0 : (renderState c n note bend s).f0 = s.f0 :=
  frames_keeps State.f0 (frame_f0 c note _) _ s

@[simp] theorem renderState_f1 : (renderState c n note bend s).f1 = s.f1 :=
  frames_keeps State.f1 (frame_f1 c note _) _ s

@[simp] theorem renderState_q : (renderState c n note bend s).q = s.q :=
  frames_keeps State.q (frame_q c note _) _ s

@[simp] theorem renderState_g : (renderState c n note bend s).g = s.g :=
  frames_keeps State.g (frame_g c note _) _ s

@[simp] theorem renderState_randFlag : (renderState c n note bend s).randFlag = s.randFlag :=
  frames_keeps State.randFlag (frame_randFlag c note _) _ s

@[simp] theorem renderState_cmds : (renderState c n note bend s).cmds = s.cmds :=
  frames_keeps State.cmds (frame_cmds c note _) _ s

@[simp] theorem renderState_bq0_coefs : (renderState c n note bend s).bq0.coefs = s.bq0.coefs :=
  frames_keeps (fun s => s.bq0.coefs) (fun s => by rw [frame_bq0, processNext_coefs]) _ s

@[simp] theorem renderState_bq1_coefs : (renderState c n note bend s).bq1.coefs = s.bq1.coefs :=
  frames_keeps (fun s => s.bq1.coefs) (fun s => by rw [frame_bq1, processNext_coefs]) _ s

end

/-! ### NOTE_ON by RAND_FLAG (R73) -/

theorem noteOnState_of_clear {s : State} (h : s.randFlag = false) (c : Config) :
    noteOnState c s = s := by
  simp [noteOnState, h]

theorem noteOnState_of_set {s : State} (h : s.randFlag = true) (c : Config) :
    noteOnState c s =
      setFreqs c (romRead c (c.vowel s.vowelCount) 0) (romRead c (c.vowel s.vowelCount) 1)
        (takeVowel s) := if_pos h

/-! ### INIT leaves the reset state (R29, R85) -/

/-- Every preset entry meets SETCOEF's precondition with the minimum resonance (R7, R51). -/
theorem setCoefPre_preset (k : Fin 5) (i : Fin 2) :
    setCoefPre (romRead Config.chip k i) SQRT2 = true := by
  rw [setCoefPre, Bool.and_eq_true]
  exact ⟨Config.chip_admitted.preset k i, by decide⟩

/-- RETUNE within SETCOEF's precondition writes both filters' formulas and takes no draw (R59). -/
theorem retune_of_pre {s : State} (h0 : setCoefPre s.f0 s.q = true) (h1 : setCoefPre s.f1 s.q = true)
    (c : Config) :
    retune c s = { s with
      bq0 := ⟨bandpass c s.f0 s.q, s.bq0.z1, s.bq0.z2⟩
      bq1 := ⟨bandpass c s.f1 s.q, s.bq1.z1, s.bq1.z2⟩ } := by
  simp only [retune, setCoef_of_pre h0, setCoef_of_pre h1]

theorem initState_eq_reset (s : State) :
    initState Config.chip s = { State.reset with
      cmds := s.cmds, noiseCount := s.noiseCount, vowelCount := s.vowelCount, coefCount := s.coefCount } := by
  rw [initState, retune_of_pre (setCoefPre_preset 0 0) (setCoefPre_preset 0 1)]
  rfl

end Sys2Proof.Machine
end

section
/-! SUPPORT. The statements of spec/10_state.md: the reset values (R29) and the write columns of the access matrix (R26). -/

namespace Sys2Proof.Machine

open Sys2Proof.Claims

theorem reset_hasResetValues : HasResetValues State.reset :=
  ⟨rfl, rfl, rfl, rfl, rfl, setCoefPre_preset 0 0, setCoefPre_preset 0 1, rfl, rfl, rfl, rfl⟩

/-- The reset values are about the block's registers only, which INIT leaves as reset does. -/
theorem initState_hasResetValues (s : State) : HasResetValues (initState Config.chip s) := by
  rw [initState_eq_reset]
  exact reset_hasResetValues

/-- Settles O31: the reset state by its fields and the admitted presets, INIT because it leaves the reset state. -/
theorem resetValues : Obligations.ResetValues := by
  unfold Obligations.ResetValues
  exact ⟨reset_hasResetValues, fun plat api s =>
    ⟨execState (.init plat api) s, exec_eq_next _ s, initState_hasResetValues s⟩⟩

/-- Settles O39, command by command: each is a listed writer of a column or its state rules say that the column is kept. -/
theorem onlyTheListedCommandsWrite : Obligations.OnlyTheListedCommandsWrite := by
  unfold Obligations.OnlyTheListedCommandsWrite
  intro i s t h
  obtain rfl := exec_eq_next_iff.mp h
  cases i with
  | nop => simp
  | init plat api => simp [initState_eq_reset]
  | render n note bend lfo => simp
  | noteOn note bend =>
    cases hflag : s.randFlag with
    | false => simp [noteOnState_of_clear hflag, hflag]
    | true => simp [noteOnState_of_set hflag, hflag]
  | noteOff note bend => simp
  | setRandvowel value => simp
  | setShape value => simp [shapeState]
  | setResonance value => simp [resonanceState]
  | setpIgnored index value => simp
  | reserved op imm28 => simp

end Sys2Proof.Machine
end

section
/-! SUPPORT. The statement of spec/20_memory.md: OUT words as the bytes of a host's buffer (R33). -/

namespace Sys2Proof.Machine

/-- A buffer is the four bytes of its first word, then the bytes of the words after it (R33). -/
@[simp] theorem hostBytes_cons (order : ByteOrder) (w : Word) (ws : List Word) :
    hostBytes order (w :: ws) = (List.range 4).map (byteAt order w) ++ hostBytes order ws := rfl

theorem length_hostBytes (order : ByteOrder) (ws : List Word) :
    (hostBytes order ws).length = 4 * ws.length := by
  induction ws with
  | nil => rfl
  | cons w ws ih => simp [ih]; omega

/-- Byte k of word n lies at byte offset 4n + k, in either byte order (R33). -/
theorem getElem?_hostBytes (order : ByteOrder) {ws : List Word} {n k : Nat} {w : Word}
    (hw : ws[n]? = some w) (hk : k < 4) :
    (hostBytes order ws)[4 * n + k]? = some (byteAt order w k) := by
  induction ws generalizing n with
  | nil => simp at hw
  | cons v ws ih =>
    cases n with
    | zero =>
      obtain rfl : v = w := by simpa using hw
      rw [hostBytes_cons, List.getElem?_append_left (by simp; omega)]
      simp [hk]
    | succ n =>
      have hoff : 4 * (n + 1) + k - 4 = 4 * n + k := by omega
      rw [hostBytes_cons, List.getElem?_append_right (by simp; omega), List.length_map,
        List.length_range, hoff]
      exact ih (by simpa using hw)

/-- Settles O55: length and place of a word's bytes are the same in both orders, which differ in `byteAt` only. -/
theorem hostBytesOfOutWords : Obligations.HostBytesOfOutWords := by
  unfold Obligations.HostBytesOfOutWords
  exact fun ws => ⟨length_hostBytes .little ws, length_hostBytes .big ws, fun _ _ _ hw hk =>
    ⟨getElem?_hostBytes .little hw hk, getElem?_hostBytes .big hw hk⟩⟩

end Sys2Proof.Machine
end

section
/-! SUPPORT. The decoder of spec/30_encoding.md: the fields of R41 as numbers, an equation of `decode` for each OP (R44) and of its sub-decoder for each INDEX (R45), and the opcode map of R46. -/

namespace Sys2Proof

/-! ### The fields of a command word as numbers (R41) -/

/-- A field is the word divided by the weight of its lowest bit, cut to the field's width. -/
theorem extractLsb'_eq_ofNat_div (w : Word) (start len : Nat) :
    w.extractLsb' start len = BitVec.ofNat len (w.toNat / 2 ^ start) := by
  rw [← Nat.shiftRight_eq_div_pow, BitVec.extractLsb']

theorem opField_eq_ofNat (w : Word) : opField w = BitVec.ofNat 4 (w.toNat / 2 ^ 28) :=
  extractLsb'_eq_ofNat_div w 28 4

theorem highByteField_eq_ofNat (w : Word) : highByteField w = BitVec.ofNat 8 (w.toNat / 2 ^ 8) :=
  extractLsb'_eq_ofNat_div w 8 8

theorem lowByteField_eq_ofNat (w : Word) : lowByteField w = BitVec.ofNat 8 w.toNat := by
  rw [lowByteField, extractLsb'_eq_ofNat_div, pow_zero, Nat.div_one]

theorem framesField_eq_ofNat (w : Word) : framesField w = BitVec.ofNat 12 (w.toNat / 2 ^ 16) :=
  extractLsb'_eq_ofNat_div w 16 12

theorem indexField_toNat (w : Word) : (indexField w).toNat = w.toNat / 2 ^ 16 % 2 ^ 8 := by
  rw [indexField, extractLsb'_eq_ofNat_div, BitVec.toNat_ofNat]

theorem indexField_eq_ofNat (w : Word) :
    indexField w = BitVec.ofNat 8 (w.toNat / 2 ^ 16 % 2 ^ 8) := by
  rw [← indexField_toNat, BitVec.ofNat_toNat, BitVec.setWidth_eq]

theorem valueField_eq_ofNat (w : Word) : valueField w = BitVec.ofNat 16 w.toNat := by
  rw [valueField, extractLsb'_eq_ofNat_div, pow_zero, Nat.div_one]

theorem imm28Field_eq_ofNat (w : Word) : imm28Field w = BitVec.ofNat 28 w.toNat := by
  rw [imm28Field, extractLsb'_eq_ofNat_div, pow_zero, Nat.div_one]

/-- OP is the top field: nothing stands above it to cut off. -/
theorem opField_toNat (w : Word) : (opField w).toNat = w.toNat / 2 ^ 28 := by
  rw [opField_eq_ofNat, BitVec.toNat_ofNat]
  omega

/-! ### The sub-decoder of SET_PARAM, by INDEX (R45) -/

section
variable {w : Word}

theorem decodeSetParam_of_index_zero (h : (indexField w).toNat = 0) :
    decodeSetParam w = .setRandvowel (valueField w) := by
  simp only [decodeSetParam, h]

theorem decodeSetParam_of_index_one (h : (indexField w).toNat = 1) :
    decodeSetParam w = .setShape (valueField w) := by
  simp only [decodeSetParam, h]

theorem decodeSetParam_of_index_two (h : (indexField w).toNat = 2) :
    decodeSetParam w = .setResonance (valueField w) := by
  simp only [decodeSetParam, h]

theorem decodeSetParam_of_three_le_index (h : 3 ≤ (indexField w).toNat) :
    decodeSetParam w = .setpIgnored (indexField w) (valueField w) := by
  obtain ⟨n, hn⟩ := Nat.exists_eq_add_of_le' h
  simp only [decodeSetParam, hn]

end

/-! ### The decoder, by OP (R44) -/

section
variable {c : Command}

theorem decode_of_op_zero (h : (opField c.cmd).toNat = 0) : decode c = .nop := by
  simp only [decode, h]

theorem decode_of_op_one (h : (opField c.cmd).toNat = 1) :
    decode c = .init (highByteField c.cmd) (lowByteField c.cmd) := by
  simp only [decode, h]

theorem decode_of_op_two (h : (opField c.cmd).toNat = 2) :
    decode c =
      .render (framesField c.cmd) (highByteField c.cmd) (lowByteField c.cmd) c.arg := by
  simp only [decode, h]

theorem decode_of_op_three (h : (opField c.cmd).toNat = 3) :
    decode c = .noteOn (highByteField c.cmd) (lowByteField c.cmd) := by
  simp only [decode, h]

theorem decode_of_op_four (h : (opField c.cmd).toNat = 4) :
    decode c = .noteOff (highByteField c.cmd) (lowByteField c.cmd) := by
  simp only [decode, h]

theorem decode_of_op_five (h : (opField c.cmd).toNat = 5) : decode c = decodeSetParam c.cmd := by
  simp only [decode, h]

theorem decode_of_six_le_op (h : 6 ≤ (opField c.cmd).toNat) :
    decode c = .reserved (opField c.cmd) (imm28Field c.cmd) := by
  obtain ⟨n, hn⟩ := Nat.exists_eq_add_of_le' h
  simp only [decode, hn]

end

/-! ### The opcode map (R46) -/

/-- Settles O6: the decoder's equation for each OP and INDEX, its fields written as numbers. -/
theorem decoderFollowsOpcodeMap : Obligations.DecoderFollowsOpcodeMap := by
  unfold Obligations.DecoderFollowsOpcodeMap
  intro c
  dsimp only
  rw [← opField_eq_ofNat, ← highByteField_eq_ofNat, ← lowByteField_eq_ofNat,
    ← framesField_eq_ofNat, ← indexField_eq_ofNat, ← valueField_eq_ofNat, ← imm28Field_eq_ofNat,
    ← opField_toNat, ← indexField_toNat]
  exact ⟨decode_of_op_zero, decode_of_op_one, decode_of_op_two, decode_of_op_three,
    decode_of_op_four,
    fun hop hindex => (decode_of_op_five hop).trans (decodeSetParam_of_index_zero hindex),
    fun hop hindex => (decode_of_op_five hop).trans (decodeSetParam_of_index_one hindex),
    fun hop hindex => (decode_of_op_five hop).trans (decodeSetParam_of_index_two hindex),
    fun hop hindex => (decode_of_op_five hop).trans (decodeSetParam_of_three_le_index hindex),
    decode_of_six_le_op⟩

end Sys2Proof
end

section
/-! SUPPORT. The stability bound of spec/40_biquad.md: a2 < 1 of R53 is lost where α is so small that rounding absorbs it into 1. -/

namespace Sys2Proof.Machine

/-- An α that rounding absorbs on both sides of R51's quotient leaves a2 at 1. -/
theorem bandpass_a2_eq_one_of_absorbed {c : Config} {w q α : F32}
    (hα : fdiv (c.sin w) (fmul F_TWO q) = α) (hadd : fadd F_ONE α = F_ONE)
    (hsub : fsub F_ONE α = F_ONE) : (bandpass c w q).a2 = F_ONE := by
  have hone : fdiv F_ONE F_ONE = F_ONE := by decide +kernel
  simp only [bandpass, hα, hadd, hsub, hone]

/-- The largest angle below π with the largest Q has α = 0x31A22169, about 4.7 × 10⁻⁹: under 2⁻²⁵, half the spacing of binary32 just below 1. -/
theorem alpha_belowPi_qMax : fdiv (sinRef BELOW_PI) (fmul F_TWO Q_MAX) = 0x31A22169#32 := by
  decide +kernel

theorem bandpass_configT1_belowPi_qMax_a2 (noise : Nat → F32) (vowel : Nat → Fin 5) :
    (bandpass (configT1 noise vowel) BELOW_PI Q_MAX).a2 = F_ONE :=
  bandpass_a2_eq_one_of_absorbed alpha_belowPi_qMax (by decide +kernel) (by decide +kernel)

/-- Refutes O57: at w = 0x40490FDA and q = 16, both admitted, a2 is 1 and not below it. -/
theorem not_roundedA2StaysBelowOne : ¬ Obligations.RoundedA2StaysBelowOne := by
  unfold Obligations.RoundedA2StaysBelowOne
  intro h
  have hlt := h (fun _ => F_ZERO) (fun _ => 0) BELOW_PI Q_MAX
    (by decide) (by decide) (by decide)
  rw [bandpass_configT1_belowPi_qMax_a2] at hlt
  exact absurd hlt (by decide)

end Sys2Proof.Machine
end

section
/-! SUPPORT. binary32 rounding is correct rounding (spec/00_scope.md R9): the magnitude `roundMag` picks is one of the two binary32 magnitudes around the number, the nearer one, on a tie the even one. -/

namespace Sys2Proof.Machine

/-! ### The two magnitudes `roundMag` picks from -/

/-- The exponent `roundMag` rounds at: the binary32 numbers around n / d units are 2 ^ `roundExp` units apart. -/
def roundExp (n d : Nat) : Nat := Nat.log2 (n / d) - 23

/-- n / d in steps of 2 ^ `roundExp` units, rounded down. -/
def roundSig (n d : Nat) : Nat := n / (d * 2 ^ roundExp n d)

/-- What `roundSig` leaves of n; a step is d * 2 ^ `roundExp` of it. -/
def roundRem (n d : Nat) : Nat := n % (d * 2 ^ roundExp n d)

theorem step_mul_roundSig_add_roundRem (n d : Nat) :
    d * 2 ^ roundExp n d * roundSig n d + roundRem n d = n := Nat.div_add_mod _ _

theorem roundSig_lt (n d : Nat) : roundSig n d < 2 ^ 24 := by
  have hlog : n / d < 2 ^ (Nat.log2 (n / d) + 1) := Nat.lt_log2_self
  rw [roundSig, ← Nat.div_div_eq_div_mul, Nat.div_lt_iff_lt_mul (Nat.two_pow_pos _), ← Nat.pow_add]
  exact hlog.trans_le (Nat.pow_le_pow_right (by decide) (by unfold roundExp; omega))

/-- Above the smallest exponent the significand has its leading one. -/
theorem roundExp_eq_zero_or_le_roundSig (n d : Nat) :
    roundExp n d = 0 ∨ 2 ^ 23 ≤ roundSig n d := by
  by_cases hk : roundExp n d = 0
  · exact .inl hk
  · right
    have hlog : Nat.log2 (n / d) = 23 + roundExp n d := by unfold roundExp at *; omega
    have hne : n / d ≠ 0 := fun h0 => by
      rw [h0, Nat.log2_zero] at hlog
      omega
    rw [roundSig, ← Nat.div_div_eq_div_mul, Nat.le_div_iff_mul_le (Nat.two_pow_pos _),
      ← Nat.pow_add, ← hlog]
    exact Nat.log2_self_le hne

/-- `roundMag` is the magnitude below n / d units or the one above it, cut at infinity, by which half of the step the rest is in; the middle goes to the even one. -/
theorem roundMag_cases (n d : Nat) :
    (roundMag n d = min (roundExp n d * 2 ^ 23 + roundSig n d) 0x7F800000 ∧
      2 * roundRem n d ≤ d * 2 ^ roundExp n d ∧
      (2 * roundRem n d = d * 2 ^ roundExp n d → roundSig n d % 2 = 0)) ∨
    (roundMag n d = min (roundExp n d * 2 ^ 23 + (roundSig n d + 1)) 0x7F800000 ∧
      d * 2 ^ roundExp n d ≤ 2 * roundRem n d ∧
      (2 * roundRem n d = d * 2 ^ roundExp n d → roundSig n d % 2 = 1)) := by
  have hdef : roundMag n d = min (roundExp n d * 2 ^ 23 + roundSig n d +
      if d * 2 ^ roundExp n d < 2 * roundRem n d ∨
        (2 * roundRem n d = d * 2 ^ roundExp n d ∧ roundSig n d % 2 = 1) then 1 else 0)
      0x7F800000 := rfl
  split at hdef <;> omega

/-- A number below the overflow bound, (2 ^ 25 - 1) * 2 ^ 252 units, rounds to a finite magnitude. -/
theorem roundMag_lt_inf {n d : Nat} (h : n < (2 ^ 25 - 1) * 2 ^ 252 * d) :
    roundMag n d < 0x7F800000 := by
  have hd : 0 < d := Nat.pos_of_mul_pos_left (Nat.zero_lt_of_lt h)
  have hsig := roundSig_lt n d
  have hexp : roundExp n d ≤ 253 := by
    have hlog : Nat.log2 (n / d) < 277 := by
      by_cases h0 : n / d = 0
      · simp [h0]
      · rw [Nat.log2_lt h0, Nat.div_lt_iff_lt_mul hd]
        omega
    unfold roundExp
    omega
  have hn := step_mul_roundSig_add_roundRem n d
  rcases Nat.lt_or_eq_of_le hexp with hlt | htop
  · rcases roundMag_cases n d with ⟨hmag, -, -⟩ | ⟨hmag, -, -⟩ <;> omega
  · rcases roundMag_cases n d with ⟨hmag, -, -⟩ | ⟨hmag, hup, -⟩
    · omega
    · have hsig' : roundSig n d ≠ 2 ^ 24 - 1 := by
        intro heq
        rw [htop] at hup hn
        rw [heq] at hn
        omega
      omega

/-! ### Magnitudes as multiples of a step -/

/-- The magnitude e * 2 ^ 23 + m stands for m * 2 ^ e units, m = 2 ^ 24 included. -/
theorem units_of_fmag_eq {x : F32} {e m : Nat} (hx : fmag x = e * 2 ^ 23 + m) (hm : m ≤ 2 ^ 24)
    (he : e = 0 ∨ 2 ^ 23 ≤ m) : units x = m * 2 ^ e := by
  rcases Nat.lt_or_ge m (2 ^ 23) with hlow | hhigh
  · obtain rfl : e = 0 := by omega
    rw [units_of_small (by omega)]
    omega
  · rw [units_of_normal (by omega)]
    rcases Nat.lt_or_eq_of_le hm with hlt | rfl
    · rw [show fmag x % 2 ^ 23 + 2 ^ 23 = m by omega, show fmag x / 2 ^ 23 - 1 = e by omega]
    · rw [show fmag x % 2 ^ 23 + 2 ^ 23 = 2 ^ 23 by omega,
        show fmag x / 2 ^ 23 - 1 = e + 1 by omega]
      ring

/-- Every magnitude is a significand below 2 ^ 24 times a power of two. -/
theorem exists_units_eq (x : F32) : ∃ m e, m < 2 ^ 24 ∧ units x = m * 2 ^ e := by
  rcases Nat.lt_or_ge (fmag x) (2 ^ 23) with hlow | hhigh
  · exact ⟨fmag x, 0, by omega, by rw [units_of_small hlow]; omega⟩
  · exact ⟨_, _, by omega, units_of_normal hhigh⟩

/-- No magnitude lies inside a step: m * 2 ^ e and (m + 1) * 2 ^ e units are neighbours. -/
theorem units_le_or_le_units (x : F32) {e m : Nat} (he : e = 0 ∨ 2 ^ 23 ≤ m) :
    units x ≤ m * 2 ^ e ∨ (m + 1) * 2 ^ e ≤ units x := by
  obtain ⟨a, b, ha, hx⟩ := exists_units_eq x
  rw [hx]
  rcases Nat.lt_or_ge b e with hlt | hge
  · left
    calc a * 2 ^ b ≤ 2 ^ 24 * 2 ^ b := Nat.mul_le_mul_right _ ha.le
      _ = 2 ^ 23 * 2 ^ (b + 1) := by ring
      _ ≤ m * 2 ^ e := Nat.mul_le_mul (by omega) (Nat.pow_le_pow_right (by decide) hlt)
  · obtain ⟨c, rfl⟩ := Nat.exists_eq_add_of_le hge
    rw [show a * 2 ^ (e + c) = a * 2 ^ c * 2 ^ e by ring]
    exact (Nat.lt_or_ge m (a * 2 ^ c)).elim (fun h => .inr (Nat.mul_le_mul_right _ h))
      fun h => .inl (Nat.mul_le_mul_right _ h)

/-- The same of signed numbers: the negative ones lie below every step. -/
theorem sunits_le_or_le_sunits (x : F32) {e m : Nat} (he : e = 0 ∨ 2 ^ 23 ≤ m) :
    sunits x ≤ (m * 2 ^ e : Nat) ∨ ((m + 1) * 2 ^ e : Nat) ≤ sunits x := by
  have h := units_le_or_le_units x he
  unfold sunits
  split <;> omega

/-! ### The nearer end of a step is nearest -/

section
variable {t lo step z : ℚ}

/-- In the lower half of a step its lower end is as near as every number outside the step, and another one is as near in the middle only. -/
theorem lower_end_nearest (hlo : lo ≤ t) (hhalf : 2 * (t - lo) ≤ step)
    (hz : z ≤ lo ∨ lo + step ≤ z) :
    |t - lo| ≤ |t - z| ∧ (|t - z| = |t - lo| → z ≠ lo → 2 * (t - lo) = step) := by
  rw [abs_of_nonneg (sub_nonneg.mpr hlo)]
  rcases hz with hz | hz
  · rw [abs_of_nonneg (by linarith)]
    exact ⟨by linarith, fun heq hne => absurd (by linarith) hne⟩
  · rw [abs_of_nonpos (by linarith)]
    exact ⟨by linarith, fun heq _ => by linarith⟩

/-- The upper end in the upper half: the lower end seen from the other side. -/
theorem upper_end_nearest (hhi : t ≤ lo + step) (hhalf : step ≤ 2 * (t - lo))
    (hz : z ≤ lo ∨ lo + step ≤ z) :
    |t - (lo + step)| ≤ |t - z| ∧
      (|t - z| = |t - (lo + step)| → z ≠ lo + step → 2 * (t - lo) = step) := by
  obtain ⟨hle, htie⟩ := lower_end_nearest (t := -t) (lo := -(lo + step)) (step := step) (z := -z)
    (by linarith) (by linarith) (hz.symm.imp (by intro h; linarith) (by intro h; linarith))
  rw [neg_sub_neg, neg_sub_neg, abs_sub_comm _ t, abs_sub_comm _ t] at hle htie
  exact ⟨hle, fun heq hne => by linarith [htie heq (fun h => hne (neg_injective h))]⟩

end

/-- Nearest in units of 2 ^ -149 is nearest. -/
theorem isNearest_of_sunits {t : ℚ} {x : F32} (hx : isFinite x = true)
    (h : ∀ y : F32, |t - sunits x| ≤ |t - sunits y| ∧
      (|t - sunits y| = |t - sunits x| → (sunits y : ℚ) ≠ sunits x → fmag x % 2 = 0)) :
    IsNearest (t / 2 ^ 149) x := by
  have hscale (y : F32) : |t / 2 ^ 149 - value y| = |t - sunits y| / 2 ^ 149 := by
    rw [value, ← sub_div, abs_div, abs_of_pos (by positivity : (0 : ℚ) < 2 ^ 149)]
  refine ⟨hx, fun y _ => ?_, fun y _ heq hne => ?_⟩
  · rw [hscale, hscale]
    exact div_le_div_of_nonneg_right (h y).1 (by positivity)
  · rw [hscale, hscale, div_left_inj' (by positivity)] at heq
    exact (h y).2 heq fun hs => hne (by rw [value, value, hs])

/-- The end of its step that `roundMag` picks, as a number of units. -/
theorem units_roundSigned_eq {n d m : Nat} (s : Bool) (hfin : roundMag n d < 0x7F800000)
    (hmag : roundMag n d = min (roundExp n d * 2 ^ 23 + m) 0x7F800000)
    (hlo : roundSig n d ≤ m) (hhi : m ≤ roundSig n d + 1) :
    units (roundSigned s n d) = m * 2 ^ roundExp n d := by
  have hsig := roundSig_lt n d
  have hexp := roundExp_eq_zero_or_le_roundSig n d
  exact units_of_fmag_eq (by rw [fmag_roundSigned]; omega) (by omega) (by omega)

theorem sunits_roundSigned_false (n d : Nat) :
    sunits (roundSigned false n d) = units (roundSigned false n d) := by
  simp [sunits]

section
variable {n d : Nat} (hd : 0 < d)
include hd

/-- A step of 2 ^ `roundExp` units, over the denominator d as `roundMag_cases` compares it. -/
theorem two_pow_roundExp_eq : (2 : ℚ) ^ roundExp n d = (d * 2 ^ roundExp n d : Nat) / d := by
  push_cast
  field_simp

/-- Twice the part of n / d inside its step, over the same denominator. -/
theorem two_mul_div_sub_roundSig_eq :
    2 * ((n / d : ℚ) - roundSig n d * 2 ^ roundExp n d) = (2 * roundRem n d : Nat) / d := by
  have hn : (d * 2 ^ roundExp n d * roundSig n d + roundRem n d : ℚ) = n := mod_cast
    step_mul_roundSig_add_roundRem n d
  push_cast
  field_simp
  linarith

theorem roundSig_mul_step_le_div : (roundSig n d * 2 ^ roundExp n d : ℚ) ≤ n / d := by
  have hrest := two_mul_div_sub_roundSig_eq (n := n) hd
  have hnonneg : (0 : ℚ) ≤ (2 * roundRem n d : Nat) / d := by positivity
  linarith

theorem div_le_roundSig_mul_step_add_step :
    (n / d : ℚ) ≤ roundSig n d * 2 ^ roundExp n d + 2 ^ roundExp n d := by
  have hrem : roundRem n d ≤ d * 2 ^ roundExp n d := (Nat.mod_lt _ (by positivity)).le
  rw [← add_one_mul, div_le_iff₀ (by positivity)]
  exact_mod_cast (step_mul_roundSig_add_roundRem n d).symm.trans_le
    ((Nat.add_le_add_left hrem _).trans_eq (by ring))

/-- `roundSigned` gives the binary32 nearest n / d units wherever its magnitude is finite (R9). -/
theorem roundSigned_isNearest (hfin : roundMag n d < 0x7F800000) :
    IsNearest ((n / d : ℚ) / 2 ^ 149) (roundSigned false n d) := by
  have hd' : (0 : ℚ) < d := Nat.cast_pos.mpr hd
  have hmiddle (h : 2 * ((n / d : ℚ) - roundSig n d * 2 ^ roundExp n d) = 2 ^ roundExp n d) :
      2 * roundRem n d = d * 2 ^ roundExp n d := by
    rwa [two_mul_div_sub_roundSig_eq hd, two_pow_roundExp_eq hd, div_left_inj' hd'.ne',
      Nat.cast_inj] at h
  have hgap (y : F32) : (sunits y : ℚ) ≤ roundSig n d * 2 ^ roundExp n d ∨
      (roundSig n d * 2 ^ roundExp n d + 2 ^ roundExp n d : ℚ) ≤ sunits y := by
    rw [← add_one_mul]
    exact_mod_cast sunits_le_or_le_sunits y (roundExp_eq_zero_or_le_roundSig n d)
  refine isNearest_of_sunits (by simpa [isFinite] using hfin) fun y => ?_
  rw [fmag_roundSigned]
  rcases roundMag_cases n d with ⟨hmag, hhalf, htie⟩ | ⟨hmag, hhalf, htie⟩
  · rw [sunits_roundSigned_false, units_roundSigned_eq false hfin hmag (by omega) (by omega)]
    push_cast
    obtain ⟨hle, heq⟩ := lower_end_nearest (roundSig_mul_step_le_div hd)
      (by rwa [two_mul_div_sub_roundSig_eq hd, two_pow_roundExp_eq hd,
        div_le_div_iff_of_pos_right hd', Nat.cast_le]) (hgap y)
    refine ⟨hle, fun h hne => ?_⟩
    have heven := htie (hmiddle (heq h hne))
    omega
  · rw [sunits_roundSigned_false, units_roundSigned_eq false hfin hmag (by omega) (by omega)]
    push_cast
    rw [add_one_mul]
    obtain ⟨hle, heq⟩ := upper_end_nearest (div_le_roundSig_mul_step_add_step hd)
      (by rwa [two_mul_div_sub_roundSig_eq hd, two_pow_roundExp_eq hd,
        div_le_div_iff_of_pos_right hd', Nat.cast_le]) (hgap y)
    refine ⟨hle, fun h hne => ?_⟩
    have hodd := htie (hmiddle (heq h hne))
    omega

end

/-! ### Integers and quotients -/

/-- `fdiv` on finite operands with a nonzero divisor is the quotient of their units, rounded once (R9). -/
theorem fdiv_of_finite {x y : F32} (hx : isFinite x = true) (hy : isFinite y = true)
    (h0 : fmag y ≠ 0) :
    fdiv x y = roundSigned (fsign x != fsign y) (units x * 2 ^ 149) (units y) := by
  have hx' : fmag x < 0x7F800000 := of_decide_eq_true hx
  have hy' : fmag y < 0x7F800000 := of_decide_eq_true hy
  have hnan (z : F32) (hz : fmag z < 0x7F800000) : isNaN z = false ∧ isInf z = false :=
    ⟨decide_eq_false (by omega), decide_eq_false (by omega)⟩
  simp [fdiv, hnan x hx', hnan y hy', h0]

theorem f32OfInt_natCast (n : Nat) : f32OfInt n = roundSigned false (n * 2 ^ 149) 1 := by
  cases n with
  | zero => decide
  | succ n => rfl

theorem roundMag_natCast_lt_inf {n : Nat} (h : n < 2 ^ 24) :
    roundMag (n * 2 ^ 149) 1 < 0x7F800000 := roundMag_lt_inf (by omega)

theorem isFinite_f32OfInt_natCast {n : Nat} (h : n < 2 ^ 24) : isFinite (f32OfInt n) = true := by
  simpa [f32OfInt_natCast, isFinite] using roundMag_natCast_lt_inf h

/-- n units of 2 ^ 149 are a whole number of steps while n has at most 24 bits. -/
theorem roundRem_natCast {n : Nat} (h : n < 2 ^ 24) : roundRem (n * 2 ^ 149) 1 = 0 := by
  have hlog : Nat.log2 (n * 2 ^ 149) < 173 := by
    by_cases h0 : n * 2 ^ 149 = 0
    · rw [h0]
      decide
    · rw [Nat.log2_lt h0]
      omega
  rw [roundRem, Nat.one_mul]
  refine Nat.mod_eq_zero_of_dvd (Dvd.dvd.mul_left (Nat.pow_dvd_pow 2 ?_) n)
  rw [roundExp, Nat.div_one]
  omega

/-- An integer operand of at most 24 bits is exact (R10). -/
theorem units_f32OfInt_natCast {n : Nat} (h : n < 2 ^ 24) : units (f32OfInt n) = n * 2 ^ 149 := by
  have hfin := roundMag_natCast_lt_inf h
  have hrem := roundRem_natCast h
  have hsteps := step_mul_roundSig_add_roundRem (n * 2 ^ 149) 1
  rw [hrem, Nat.one_mul, Nat.add_zero, Nat.mul_comm] at hsteps
  rcases roundMag_cases (n * 2 ^ 149) 1 with ⟨hmag, -, -⟩ | ⟨-, hhalf, -⟩
  · rw [f32OfInt_natCast, units_roundSigned_eq false hfin hmag (by omega) (by omega), hsteps]
  · have hpos := Nat.two_pow_pos (roundExp (n * 2 ^ 149) 1)
    omega

/-- A quotient of integers of at most 24 bits is the nearest binary32 (R9, R10). -/
theorem fdiv_f32OfInt_isNearest {a b : Nat} (ha : a < 2 ^ 24) (hb : b < 2 ^ 24) (h0 : 0 < b) :
    IsNearest (a / b : ℚ) (fdiv (f32OfInt a) (f32OfInt b)) := by
  have hmag : fmag (f32OfInt b) ≠ 0 := by
    rw [Ne, ← units_eq_zero_iff, units_f32OfInt_natCast hb]
    omega
  have hsign (n : Nat) : fsign (f32OfInt n) = false := by
    rw [f32OfInt_natCast, fsign_roundSigned]
  rw [fdiv_of_finite (isFinite_f32OfInt_natCast ha) (isFinite_f32OfInt_natCast hb) hmag,
    units_f32OfInt_natCast ha, units_f32OfInt_natCast hb, hsign, hsign, bne_self_eq_false]
  have hnearest := roundSigned_isNearest (n := a * 2 ^ 149 * 2 ^ 149) (d := b * 2 ^ 149)
    (by omega) (roundMag_lt_inf (by omega))
  convert hnearest using 1
  push_cast
  field_simp
  ring

end Sys2Proof.Machine
end

section
/-! SUPPORT. The statements of spec/43_controller.md on PVAL, SET_RANDVOWEL, SETP_IGNORED and NOTE_OFF (R68, R69, R72, R74). -/

namespace Sys2Proof.Machine

/-! ### PVAL (R68) -/

theorem pval_eq_of_paramMax_le {v : BitVec 16} (h : 1023 ≤ v.toNat) : pval v = F_ONE := by
  have hone : fdiv (f32OfInt PARAM_MAX) (f32OfInt PARAM_MAX) = F_ONE := by decide +kernel
  rw [pval, Nat.min_eq_right (show PARAM_MAX ≤ v.toNat from h), hone]

/-- Settles O23: PVAL divides two integers of at most 24 bits, and a VALUE from 1023 on divides 1023 by itself. -/
theorem parameterValueIsNearestFraction : Obligations.ParameterValueIsNearestFraction := by
  unfold Obligations.ParameterValueIsNearestFraction
  refine ⟨fun v => ?_, by decide +kernel, fun v => pval_eq_of_paramMax_le, by decide +kernel⟩
  exact fdiv_f32OfInt_isNearest (by omega) (by decide) (by decide)

/-! ### Command words given by a mask -/

/-- A field inside a mask is that of the masked word. -/
theorem extractLsb'_eq_of_and_eq {w mask v : Word} {start len : Nat}
    (hfield : mask.extractLsb' start len = BitVec.allOnes len) (h : w &&& mask = v) :
    w.extractLsb' start len = v.extractLsb' start len := by
  rw [← h, BitVec.extractLsb'_and, hfield, BitVec.and_allOnes]

theorem opField_eq_of_and_eq {w mask v : Word} (hfield : opField mask = 15#4) (h : w &&& mask = v) :
    opField w = opField v := extractLsb'_eq_of_and_eq hfield h

theorem indexField_eq_of_and_eq {w mask v : Word} (hfield : indexField mask = 255#8)
    (h : w &&& mask = v) : indexField w = indexField v := extractLsb'_eq_of_and_eq hfield h

/-! ### The commands -/

/-- Settles O15: OP 4 is NOTE_OFF, whose state is the state before. -/
theorem noteOffChangesNothing : Obligations.NoteOffChangesNothing := by
  unfold Obligations.NoteOffChangesNothing
  refine ⟨fun c hcmd => decode_of_op_four ?_,
    fun note bend s => exec_eq_next (.noteOff note bend) s⟩
  rw [opField_eq_of_and_eq (by decide) hcmd]
  decide

/-- Settles O16: OP 5 with INDEX 3 and up is SETP_IGNORED, whose state is the state before. -/
theorem outOfRangeIndexIsIgnored : Obligations.OutOfRangeIndexIsIgnored := by
  unfold Obligations.OutOfRangeIndexIsIgnored
  refine ⟨fun c hcmd hindex => ?_, fun index v s => exec_eq_next (.setpIgnored index v) s,
    fun arg => ?_⟩
  · have hop : opField c.cmd = 5#4 := opField_eq_of_and_eq (by decide) hcmd
    exact (decode_of_op_five (by rw [hop]; decide)).trans (decodeSetParam_of_three_le_index hindex)
  · have hop : (opField 0x5F010005#32).toNat = 5 := by decide
    have hindex : (indexField 0x5F010005#32).toNat = 1 := by decide
    have hvalue : valueField 0x5F010005#32 = 5#16 := by decide
    rw [decode_of_op_five (c := ⟨0x5F010005#32, arg⟩) hop, decodeSetParam_of_index_one hindex,
      hvalue]

theorem randFlagOf_eq (v : BitVec 16) : randFlagOf v = decide (v.toNat ≠ 0) := by
  simp [randFlagOf, ← BitVec.toNat_inj]

/-- Settles O18: OP 5 with INDEX 0 is SET_RANDVOWEL, whose state is `randVowelState`. -/
theorem setRandvowelStoresFlag : Obligations.SetRandvowelStoresFlag := by
  unfold Obligations.SetRandvowelStoresFlag
  refine ⟨fun c hcmd => ?_, fun v s => ?_⟩
  · have hop : opField c.cmd = 5#4 := opField_eq_of_and_eq (by decide) hcmd
    have hindex : indexField c.cmd = 0#8 := indexField_eq_of_and_eq (by decide) hcmd
    exact (decode_of_op_five (by rw [hop]; decide)).trans
      (decodeSetParam_of_index_zero (by rw [hindex]; decide))
  · rw [exec_eq_next, execState, randVowelState, randFlagOf_eq]

end Sys2Proof.Machine
end

section
/-! SUPPORT. The statements of spec/44_pipeline.md on TO_Q31 and SHAPE_LFO (R79, R82). A clamped number is at most 2 ^ 149 units, so the product truncated fits a signed word without its least value. -/

namespace Sys2Proof.Machine

/-! ### Numbers of units -/

@[simp] theorem natAbs_sunits (x : F32) : (sunits x).natAbs = units x := by
  cases h : fsign x <;> simp [sunits, h]

/-- A larger magnitude word stands for a larger magnitude. -/
theorem units_le_units {x y : F32} (h : fmag x ≤ fmag y) : units x ≤ units y := by
  rcases Nat.lt_or_ge (fmag y) (2 ^ 23) with hy | hy
  · rwa [units_of_small (by omega), units_of_small hy]
  · rw [units_of_normal hy]
    rcases Nat.lt_or_ge (fmag x) (2 ^ 23) with hx | hx
    · rw [units_of_small hx]
      exact (show fmag x ≤ fmag y % 2 ^ 23 + 2 ^ 23 by omega).trans
        (Nat.le_mul_of_pos_right _ (Nat.two_pow_pos _))
    · rw [units_of_normal hx]
      rcases Nat.lt_or_ge (fmag x / 2 ^ 23) (fmag y / 2 ^ 23) with hlt | hge
      · calc (fmag x % 2 ^ 23 + 2 ^ 23) * 2 ^ (fmag x / 2 ^ 23 - 1)
            ≤ 2 ^ 24 * 2 ^ (fmag x / 2 ^ 23 - 1) := Nat.mul_le_mul_right _ (by omega)
          _ = 2 ^ 23 * 2 ^ (fmag x / 2 ^ 23 - 1 + 1) := by ring
          _ ≤ (fmag y % 2 ^ 23 + 2 ^ 23) * 2 ^ (fmag y / 2 ^ 23 - 1) :=
            Nat.mul_le_mul (by omega) (Nat.pow_le_pow_right (by decide) (by omega))
      · rw [show fmag x / 2 ^ 23 = fmag y / 2 ^ 23 by omega]
        exact Nat.mul_le_mul_right _ (by omega)

/-- The integer part of a fraction is the quotient rounded toward zero (R10). -/
theorem ratTrunc_intCast_div_natCast (n : ℤ) {d : ℕ} (hd : 0 < d) :
    ratTrunc (n / d) = n.tdiv d := by
  unfold ratTrunc
  rcases le_or_gt 0 n with hn | hn
  · rw [if_pos (by positivity), Rat.floor_intCast_div_natCast, Int.tdiv_eq_ediv_of_nonneg hn]
  · have hneg : (n / d : ℚ) < 0 := div_neg_of_neg_of_pos (by exact_mod_cast hn) (by positivity)
    rw [if_neg hneg.not_ge, Rat.ceil_intCast_div_natCast, ← Int.tdiv_eq_ediv_of_nonneg (by omega),
      Int.neg_tdiv, neg_neg]

/-! ### The clamped number (R10) -/

@[simp] theorem natAbs_fkey (x : F32) : (fkey x).natAbs = fmag x := by
  cases h : fsign x <;> simp [fkey, h]

theorem fmag_clamp1_le {x : F32} (h : isNaN x = false) : fmag (clamp1 x) ≤ fmag F_ONE := by
  have hone : isNaN F_ONE = false ∧ fkey F_ONE = fmag F_ONE := by decide
  have hneg : isNaN F_NEG_ONE = false ∧ fkey F_NEG_ONE = -fmag F_ONE := by decide
  unfold clamp1
  split
  · exact le_rfl
  · next habove =>
    split
    · decide
    · next hbelow =>
      simp only [flt_iff, h, hone, hneg, true_and, not_lt] at habove hbelow
      rw [← natAbs_fkey x]
      omega

theorem units_clamp1_le {x : F32} (h : isNaN x = false) : units (clamp1 x) ≤ 2 ^ 149 :=
  (units_le_units (fmag_clamp1_le h)).trans (by decide)

/-! ### TO_Q31 (R79) -/

theorem q31Int_of_isNaN {o : F32} (h : isNaN o = true) : q31Int o = 0 := by
  simp [q31Int, h]

theorem q31Int_of_not_isNaN {o : F32} (h : isNaN o = false) :
    q31Int o = (sunits (clamp1 o) * 2147483647).tdiv (2 ^ 149) := by
  simp [q31Int, h]

theorem q31Int_eq_ratTrunc {o : F32} (h : isNaN o = false) :
    q31Int o = ratTrunc (value (clamp1 o) * (2 ^ 31 - 1)) := by
  have hproduct : value (clamp1 o) * (2 ^ 31 - 1) =
      (sunits (clamp1 o) * 2147483647 : ℤ) / (2 ^ 149 : ℕ) := by
    rw [value]
    push_cast
    ring
  rw [hproduct, ratTrunc_intCast_div_natCast _ (by positivity), q31Int_of_not_isNaN h,
    Nat.cast_pow, Nat.cast_ofNat]

/-- Full scale is 2 ^ 31 - 1 on both sides (R79, R83). -/
theorem natAbs_q31Int_le (o : F32) : (q31Int o).natAbs ≤ 2147483647 := by
  cases h : isNaN o with
  | true => simp [q31Int_of_isNaN h]
  | false =>
    have hunits := units_clamp1_le h
    rw [q31Int_of_not_isNaN h, Int.natAbs_tdiv, Int.natAbs_mul, natAbs_sunits]
    exact Nat.div_le_of_le_mul (Nat.mul_le_mul_right _ hunits)

/-- The word holds q itself: no q is cut (R79). -/
theorem toInt_toQ31 (o : F32) : (toQ31 o).toInt = q31Int o := by
  have hq := natAbs_q31Int_le o
  exact BitVec.toInt_ofInt_eq_self (by decide) (by omega) (by omega)

theorem toQ31_ne_intMin (o : F32) : toQ31 o ≠ 0x80000000#32 := by
  intro h
  have hq := natAbs_q31Int_le o
  have hmin : (0x80000000#32).toInt = -2147483648 := by decide
  rw [← toInt_toQ31, h, hmin] at hq
  omega

/-- Settles O48: the word of TO_Q31 holds q, which is the truncated product and at most 2 ^ 31 - 1 in size; the corners are computed. -/
theorem q31IsTruncatedExactProduct : Obligations.Q31IsTruncatedExactProduct := by
  unfold Obligations.Q31IsTruncatedExactProduct
  refine ⟨fun o h => ?_, fun o h => ?_, toQ31_ne_intMin, by decide +kernel⟩
  · rw [toQ31, q31Int_of_isNaN h]
    rfl
  · rw [toInt_toQ31, q31Int_eq_ratTrunc h]

/-! ### SHAPE_LFO (R82) -/

/-- Settles O37: the state a RENDER leaves is `renderState`, which takes no SHAPE_LFO. -/
theorem shapeLfoHasNoEffect : Obligations.ShapeLfoHasNoEffect := by
  unfold Obligations.ShapeLfoHasNoEffect
  intro n note bend l1 l2 s
  rw [exec_eq_next, exec_eq_next, execState, execState]

end Sys2Proof.Machine
end

section
/-! SUPPORT. The statements of spec/45_lifecycle.md on NOP and the two RESERVED rows (R86, R87). -/

namespace Sys2Proof.Machine

/-! ### The OP of the RESERVED rows (R44) -/

theorem opField_and (w mask : Word) : opField (w &&& mask) = opField w &&& opField mask :=
  BitVec.extractLsb'_and

/-- The row 011x holds OP 6 and 7, the row 1xxx the OP from 8 on. -/
theorem six_le_of_reserved_row :
    ∀ op : BitVec 4, op &&& 0xE#4 = 0x6#4 ∨ op &&& 0x8#4 = 0x8#4 → 6 ≤ op.toNat := by
  decide

theorem six_le_opField_of_reserved_word {w : Word}
    (h : w &&& 0xE0000000#32 = 0x60000000#32 ∨ w &&& 0x80000000#32 = 0x80000000#32) :
    6 ≤ (opField w).toNat := by
  refine six_le_of_reserved_row _ (h.imp (fun hrow => ?_) fun hrow => ?_)
  · exact (opField_and w 0xE0000000#32).symm.trans (congrArg opField hrow)
  · exact (opField_and w 0x80000000#32).symm.trans (congrArg opField hrow)

/-! ### The commands -/

/-- Settles O14: OP 0 is NOP, whose state is the state before. -/
theorem nopChangesNothing : Obligations.NopChangesNothing := by
  unfold Obligations.NopChangesNothing
  refine ⟨fun c hcmd => decode_of_op_zero ?_, fun s => exec_eq_next .nop s⟩
  rw [opField_eq_of_and_eq (by decide) hcmd]
  decide

/-- Settles O17: either row has an OP of 6 or above, which is RESERVED, whose state is the state before. -/
theorem reservedOpcodesAreNoOps : Obligations.ReservedOpcodesAreNoOps := by
  unfold Obligations.ReservedOpcodesAreNoOps
  exact ⟨fun c hcmd => decode_of_six_le_op (six_le_opField_of_reserved_word hcmd),
    fun op imm s => exec_eq_next (.reserved op imm) s⟩

end Sys2Proof.Machine
end

section
/-! SUPPORT. Bounds through the binary32 operations (spec/00_scope.md R9): a result is rounded once, so it keeps every bound that is a binary32 itself. -/

namespace Sys2Proof.Machine

/-! ### Order and size of finite values -/

theorem isNaN_eq_false_of_isFinite {x : F32} (h : isFinite x = true) : isNaN x = false :=
  isNaN_eq_false (of_decide_eq_true h : fmag x < 0x7F800000).le

theorem isInf_eq_false_of_isFinite {x : F32} (h : isFinite x = true) : isInf x = false := by
  have hx : fmag x < 0x7F800000 := of_decide_eq_true h
  exact decide_eq_false (by omega)

/-- Magnitude words of finite numbers are ordered as their magnitudes. -/
theorem units_le_units_iff {x y : F32} (hx : isFinite x = true) (hy : isFinite y = true) :
    units x ≤ units y ↔ fmag x ≤ fmag y := by
  refine ⟨fun h => ?_, units_le_units⟩
  rcases Nat.lt_or_ge (fmag y) (fmag x) with hlt | hge
  · have heq : units x = units y := le_antisymm h (units_le_units hlt.le)
    rw [← roundMag_units hx, heq, roundMag_units hy]
  · exact hge

theorem value_le_value_iff {x y : F32} (hx : isFinite x = true) (hy : isFinite y = true) :
    value x ≤ value y ↔ fkey x ≤ fkey y := by
  have hxy := units_le_units_iff hx hy
  have hyx := units_le_units_iff hy hx
  have hx0 := units_eq_zero_iff x
  have hy0 := units_eq_zero_iff y
  rw [value, value, div_le_div_iff_of_pos_right (by positivity), Int.cast_le]
  unfold sunits fkey
  split <;> split <;> omega

theorem fle_iff_value_le {x y : F32} (hx : isFinite x = true) (hy : isFinite y = true) :
    fle x y = true ↔ value x ≤ value y := by
  simp [fle_iff, isNaN_eq_false_of_isFinite, hx, hy, value_le_value_iff hx hy]

theorem flt_iff_value_lt {x y : F32} (hx : isFinite x = true) (hy : isFinite y = true) :
    flt x y = true ↔ value x < value y := by
  rw [← not_le, value_le_value_iff hy hx, not_le]
  simp [flt_iff, isNaN_eq_false_of_isFinite, hx, hy]

theorem abs_value_lt_overflowBound {x : F32} (hx : isFinite x = true) :
    |value x| < overflowBound := by
  have hmax : units 0x7F7FFFFF#32 = 16777215 * 2 ^ 253 := by decide +kernel
  have hle : fmag x ≤ fmag 0x7F7FFFFF#32 := by
    have hx' : fmag x < 0x7F800000 := of_decide_eq_true hx
    exact Nat.le_of_lt_succ hx'
  have hunits : (units x : ℚ) ≤ (16777215 * 2 ^ 253 : Nat) :=
    Nat.cast_le.mpr (hmax ▸ units_le_units hle)
  have habs : |(sunits x : ℚ)| = units x := by
    rw [← Int.cast_abs, Int.abs_eq_natAbs, natAbs_sunits, Int.cast_natCast]
  rw [value, abs_div, habs, abs_of_pos (by positivity : (0 : ℚ) < 2 ^ 149), overflowBound,
    div_lt_iff₀ (by positivity)]
  exact hunits.trans_lt (by norm_num)

@[simp] theorem isFinite_fneg (x : F32) : isFinite (fneg x) = isFinite x := by simp [isFinite]

@[simp] theorem value_fneg (x : F32) : value (fneg x) = -value x := by
  simp [value, neg_div]

/-! ### Numbers between two binary32 bounds -/

/-- x is a finite number from lo to hi. -/
structure Within (lo hi x : F32) : Prop where
  finite : isFinite x = true
  low : value lo ≤ value x
  high : value x ≤ value hi

section
variable {lo hi x : F32}

theorem Within.fle_low (h : Within lo hi x) (hlo : isFinite lo = true) : fle lo x = true :=
  (fle_iff_value_le hlo h.finite).mpr h.low

theorem Within.fle_high (h : Within lo hi x) (hhi : isFinite hi = true) : fle x hi = true :=
  (fle_iff_value_le h.finite hhi).mpr h.high

theorem Within.mono {lo' hi' : F32} (h : Within lo hi x) (hl : value lo' ≤ value lo)
    (hh : value hi ≤ value hi') : Within lo' hi' x :=
  ⟨h.finite, hl.trans h.low, h.high.trans hh⟩

variable (hlo : isFinite lo = true) (hhi : isFinite hi = true)
include hlo hhi

/-- A number between finite bounds is finite. -/
theorem within_of_fle (hl : fle lo x = true) (hh : fle x hi = true) : Within lo hi x := by
  have hx : isFinite x = true := by
    obtain ⟨-, -, hlk⟩ := (fle_iff lo x).mp hl
    obtain ⟨-, -, hhk⟩ := (fle_iff x hi).mp hh
    have hlo' : fmag lo < 0x7F800000 := of_decide_eq_true hlo
    have hhi' : fmag hi < 0x7F800000 := of_decide_eq_true hhi
    rw [← natAbs_fkey] at hlo' hhi'
    rw [isFinite, ← natAbs_fkey]
    exact decide_eq_true (by omega)
  exact ⟨hx, (fle_iff_value_le hlo hx).mp hl, (fle_iff_value_le hx hhi).mp hh⟩

/-- Rounding keeps the bounds of the exact number: none is nearer beyond a bound than the bound. -/
theorem within_of_isNearest {r : ℚ} (h : IsNearest r x) (hl : value lo ≤ r) (hh : r ≤ value hi) :
    Within lo hi x := by
  refine ⟨h.finite, ?_, ?_⟩
  · by_contra! hlt
    have hnear := h.nearest lo hlo
    rw [abs_of_nonneg (by linarith), abs_of_nonneg (by linarith)] at hnear
    linarith
  · by_contra! hgt
    have hnear := h.nearest hi hhi
    rw [abs_of_nonpos (by linarith), abs_of_nonpos (by linarith)] at hnear
    linarith

end

/-! ### Signed rounding -/

/-- The factor a sign bit stands for. -/
def signFactor (s : Bool) : ℚ := if s then -1 else 1

theorem signFactor_bne (s t : Bool) : signFactor (s != t) = signFactor s * signFactor t := by
  cases s <;> cases t <;> simp [signFactor]

theorem abs_signFactor (s : Bool) : |signFactor s| = 1 := by
  cases s <;> simp [signFactor]

theorem value_eq_signFactor_mul (x : F32) : value x = signFactor (fsign x) * (units x / 2 ^ 149) := by
  cases h : fsign x <;> simp [value, sunits, signFactor, h, neg_div]

theorem IsNearest.neg {r : ℚ} {x : F32} (h : IsNearest r x) : IsNearest (-r) (fneg x) := by
  have hflip (y : F32) : |-r - value y| = |r - value (fneg y)| := by
    rw [value_fneg, ← abs_neg]
    ring_nf
  refine ⟨by simpa using h.finite, fun y hy => ?_, fun y hy heq hne => ?_⟩
  · rw [hflip, hflip, fneg_fneg]
    exact h.nearest _ (by simpa using hy)
  · rw [hflip, hflip, fneg_fneg] at heq
    rw [fmag_fneg]
    exact h.even _ (by simpa using hy) heq fun h' => hne (by simp [← h'])

/-- `roundSigned` gives the binary32 nearest ± n / d units below the overflow bound (R9). -/
theorem roundSigned_isNearest_of_lt (s : Bool) {n d : Nat} (hd : 0 < d)
    (h : (n / d : ℚ) / 2 ^ 149 < overflowBound) :
    IsNearest (signFactor s * ((n / d : ℚ) / 2 ^ 149)) (roundSigned s n d) := by
  have hfin : roundMag n d < 0x7F800000 := by
    rw [overflowBound, div_lt_iff₀ (by positivity), div_lt_iff₀ (by positivity)] at h
    refine roundMag_lt_inf ?_
    have h' : (n : ℚ) < ((2 ^ 25 - 1) * 2 ^ 252 * d : Nat) := by
      push_cast
      linarith
    exact_mod_cast h'
  have hpos := roundSigned_isNearest hd hfin
  cases s with
  | false => simpa [signFactor] using hpos
  | true =>
    have hneg : fneg (roundSigned false n d) = roundSigned true n d := pack_inj (by simp) (by simp)
    simpa [signFactor, hneg] using hpos.neg

/-- A number between two finite words rounds to one between them. -/
theorem roundSigned_within {lo hi : F32} (hlo : isFinite lo = true) (hhi : isFinite hi = true)
    (s : Bool) {n d : Nat} (hd : 0 < d) {r : ℚ} (hr : r = signFactor s * ((n / d : ℚ) / 2 ^ 149))
    (hl : value lo ≤ r) (hh : r ≤ value hi) : Within lo hi (roundSigned s n d) := by
  have habs : |r| = (n / d : ℚ) / 2 ^ 149 := by
    rw [hr, abs_mul, abs_signFactor, one_mul, abs_of_nonneg (by positivity)]
  have hbound : |r| < overflowBound :=
    (abs_le_max_abs_abs hl hh).trans_lt
      (max_lt (abs_value_lt_overflowBound hlo) (abs_value_lt_overflowBound hhi))
  exact within_of_isNearest hlo hhi (hr ▸ roundSigned_isNearest_of_lt s hd (habs ▸ hbound)) hl hh

/-! ### The operations between bounds (R9) -/

theorem fsign_eq_false_of_value_pos {x : F32} (h : 0 < value x) : fsign x = false := by
  by_contra hs
  rw [Bool.not_eq_false] at hs
  have hle : value x ≤ 0 := by
    rw [value_eq_signFactor_mul, hs, signFactor, if_pos rfl, neg_one_mul, neg_nonpos]
    positivity
  exact hle.not_gt h

section
variable {lo hi x y : F32} (hlo : isFinite lo = true) (hhi : isFinite hi = true)
  (hx : isFinite x = true) (hy : isFinite y = true)
include hx hy

/-- A finite sum is its units rounded once; a zero one may have either sign. -/
theorem sumAs_eq_roundSigned (op : FOp) (x0 y0 : F32) :
    ∃ s, sumAs op x0 y0 x y = roundSigned s (sunits x + sunits y).natAbs 1 ∧
      ((sunits x + sunits y : ℤ) : ℚ) = signFactor s * (sunits x + sunits y).natAbs := by
  simp only [sumAs, isNaN_eq_false_of_isFinite, isInf_eq_false_of_isFinite, hx, hy, Bool.or_self,
    Bool.false_eq_true, if_false]
  generalize sunits x + sunits y = z
  split
  · next hz => exact ⟨fsign x && fsign y, by rw [hz]; rfl, by simp [hz]⟩
  · refine ⟨_, rfl, ?_⟩
    have hcast : ((z.natAbs : ℤ) : ℚ) = z.natAbs := Int.cast_natCast _
    rcases lt_or_ge z 0 with hneg | hpos
    · simp [signFactor, hneg, ← hcast, Int.ofNat_natAbs_of_nonpos hneg.le]
    · simp [signFactor, hpos.not_gt, ← hcast, Int.natAbs_of_nonneg hpos]

include hlo hhi

theorem sumAs_within (op : FOp) (x0 y0 : F32) (hl : value lo ≤ value x + value y)
    (hh : value x + value y ≤ value hi) : Within lo hi (sumAs op x0 y0 x y) := by
  obtain ⟨s, hsum, hval⟩ := sumAs_eq_roundSigned hx hy op x0 y0
  rw [hsum]
  refine roundSigned_within hlo hhi s one_pos ?_ hl hh
  rw [Nat.cast_one, div_one, ← mul_div_assoc, ← hval, value, value, Int.cast_add, add_div]

theorem fadd_within (hl : value lo ≤ value x + value y) (hh : value x + value y ≤ value hi) :
    Within lo hi (fadd x y) := by
  rw [fadd_eq]
  exact sumAs_within hlo hhi hx hy _ _ _ hl hh

theorem fsub_within (hl : value lo ≤ value x - value y) (hh : value x - value y ≤ value hi) :
    Within lo hi (fsub x y) := by
  rw [fsub_eq]
  rw [sub_eq_add_neg, ← value_fneg] at hl hh
  exact sumAs_within hlo hhi hx (by simpa using hy) _ _ _ hl hh

theorem fmul_within (hl : value lo ≤ value x * value y) (hh : value x * value y ≤ value hi) :
    Within lo hi (fmul x y) := by
  have hmul : fmul x y = roundSigned (fsign x != fsign y) (units x * units y) (2 ^ 149) := by
    simp [fmul, isNaN_eq_false_of_isFinite, isInf_eq_false_of_isFinite, hx, hy]
  rw [hmul]
  refine roundSigned_within hlo hhi _ (by positivity) ?_ hl hh
  rw [value_eq_signFactor_mul, value_eq_signFactor_mul, signFactor_bne]
  push_cast
  ring

/-- The bounds of a quotient by a positive number, as bounds of its dividend. -/
theorem fdiv_within (hpos : 0 < value y) (hl : value lo * value y ≤ value x)
    (hh : value x ≤ value hi * value y) : Within lo hi (fdiv x y) := by
  have hsign : signFactor (fsign y) = 1 := by rw [fsign_eq_false_of_value_pos hpos]; rfl
  have hval : value y = units y / 2 ^ 149 := by rw [value_eq_signFactor_mul, hsign, one_mul]
  have hunits : 0 < units y := by
    refine Nat.pos_of_ne_zero fun h => ?_
    simp [hval, h] at hpos
  rw [fdiv_of_finite hx hy (mt (units_eq_zero_iff y).mpr hunits.ne')]
  refine roundSigned_within hlo hhi _ hunits ?_ ((le_div_iff₀ hpos).mpr hl)
    ((div_le_iff₀ hpos).mpr hh)
  rw [signFactor_bne, hsign, hval, value_eq_signFactor_mul x, Nat.cast_mul, Nat.cast_pow,
    Nat.cast_ofNat]
  field_simp

end

/-- A divisor of at least 1 keeps bounds around 0. -/
theorem fdiv_within_of_one_le {lo hi x y : F32} (hlo : isFinite lo = true)
    (hhi : isFinite hi = true) (hlo0 : value lo ≤ 0) (hhi0 : 0 ≤ value hi) (hx : Within lo hi x)
    (hy : isFinite y = true) (hone : 1 ≤ value y) : Within lo hi (fdiv x y) := by
  obtain ⟨hxfin, hxlow, hxhigh⟩ := hx
  exact fdiv_within hlo hhi hxfin hy (by linarith) (by nlinarith) (by nlinarith)

/-! ### The numbers of the constants -/

/-- The largest finite binary32, 2 ^ 128 - 2 ^ 104. -/
def MAX_FINITE : F32 := 0x7F7FFFFF#32

/-- The largest binary32 whose double is finite, half of `MAX_FINITE`. -/
def HALF_MAX_FINITE : F32 := 0x7EFFFFFF#32

/-- 2 ^ 127, which no alpha exceeds. -/
def ALPHA_MAX : F32 := 0x7F000000#32

/-- 2 × SQRT2, the least divisor of alpha. -/
def DIVISOR_MIN : F32 := 0x403504F3#32

def F_EIGHT : F32 := 0x41000000#32

def F_THIRTY_TWO : F32 := 0x42000000#32

def F_SIXTY_FOUR : F32 := 0x42800000#32

@[simp] theorem value_F_ZERO : value F_ZERO = 0 := by decide +kernel

@[simp] theorem value_F_ONE : value F_ONE = 1 := by decide +kernel

@[simp] theorem value_F_NEG_ONE : value F_NEG_ONE = -1 := by decide +kernel

@[simp] theorem value_F_TWO : value F_TWO = 2 := by decide +kernel

@[simp] theorem value_F_NEG_TWO : value F_NEG_TWO = -2 := by decide +kernel

@[simp] theorem value_F_FOUR : value F_FOUR = 4 := by decide +kernel

@[simp] theorem value_F_EIGHT : value F_EIGHT = 8 := by decide +kernel

@[simp] theorem value_F_THIRTY_TWO : value F_THIRTY_TWO = 32 := by decide +kernel

@[simp] theorem value_F_SIXTY_FOUR : value F_SIXTY_FOUR = 64 := by decide +kernel

@[simp] theorem value_SQRT2 : value SQRT2 = 11863283 / 2 ^ 23 := by decide +kernel

@[simp] theorem value_DIVISOR_MIN : value DIVISOR_MIN = 11863283 / 2 ^ 22 := by decide +kernel

@[simp] theorem value_Q_MAX : value Q_MAX = 16 := by decide +kernel

@[simp] theorem value_QSPAN : value QSPAN = 7647153 / 2 ^ 19 := by decide +kernel

@[simp] theorem value_FIVE_SQRT2 : value FIVE_SQRT2 = 926819 / 2 ^ 17 := by decide +kernel

@[simp] theorem value_ALPHA_MAX : value ALPHA_MAX = 2 ^ 127 := by decide +kernel

@[simp] theorem value_MAX_FINITE : value MAX_FINITE = 2 ^ 128 - 2 ^ 104 := by decide +kernel

@[simp] theorem value_HALF_MAX_FINITE : value HALF_MAX_FINITE = 2 ^ 127 - 2 ^ 103 := by
  decide +kernel

end Sys2Proof.Machine
end

section
/-! SUPPORT. The statements of spec/60_exceptions.md on invalid, divide-by-zero and overflow (R90): the numbers of SETCOEF and of the parameter commands lie between binary32 bounds. -/

namespace Sys2Proof

/-- A configuration with its SIN replaced. -/
def Config.withSin (c : Config) (f : F32 → F32) : Config := { c with sin := f }

/-- R7 sets no condition on SIN (log entry 22). -/
theorem Config.withSin_admitted {c : Config} (h : c.Admitted) (f : F32 → F32) :
    (c.withSin f).Admitted :=
  ⟨h.preset, h.blsaw, h.pitchInc, h.noise⟩

end Sys2Proof

namespace Sys2Proof.Machine

/-! ### a0 below 1 where the sine is negative -/

/-- Refutes O58: with a SIN that is -1 everywhere, w = 1 and q = SQRT2 give an a0 of about 0.65. -/
theorem not_divisorA0IsAtLeastOneForEverySine :
    ¬ Obligations.DivisorA0IsAtLeastOneForEverySine := by
  unfold Obligations.DivisorA0IsAtLeastOneForEverySine
  intro h
  have hle : fle F_ONE (fadd F_ONE (fdiv F_NEG_ONE (fmul F_TWO SQRT2))) = true :=
    h (Config.chip.withSin fun _ => F_NEG_ONE) (Config.withSin_admitted Config.chip_admitted _)
      F_ONE SQRT2 (by decide) (by decide) (by decide)
  exact absurd hle (by decide +kernel)

/-! ### SETCOEF's divisors and alpha (R51) -/

/-- The divisor 2q of alpha. -/
theorem divisor_within {q : F32} (hq : Within SQRT2 Q_MAX q) :
    Within DIVISOR_MIN F_THIRTY_TWO (fmul F_TWO q) := by
  obtain ⟨hfin, hlow, hhigh⟩ := hq
  rw [value_SQRT2] at hlow
  rw [value_Q_MAX] at hhigh
  apply fmul_within (by decide) (by decide) (by decide) hfin <;> simp <;> linarith

theorem two_le_value_divisor {d : F32} (hd : Within DIVISOR_MIN F_THIRTY_TWO d) : 2 ≤ value d :=
  (by norm_num : (2 : ℚ) ≤ value DIVISOR_MIN).trans hd.low

section
variable {sn d : F32} (hsn : isFinite sn = true) (hpos : 0 < value sn)
  (hd : Within DIVISOR_MIN F_THIRTY_TWO d)
include hsn hpos hd

/-- A finite sine is below 2 ^ 128 and the divisor at least 2, so alpha does not overflow. -/
theorem alpha_within : Within F_ZERO ALPHA_MAX (fdiv sn d) := by
  have htwo := two_le_value_divisor hd
  have hmax : value sn < overflowBound := (le_abs_self _).trans_lt (abs_value_lt_overflowBound hsn)
  rw [overflowBound] at hmax
  apply fdiv_within (by decide) (by decide) hsn hd.finite (by linarith) <;> simp <;> linarith

theorem alpha_within_unit (hone : value sn ≤ 1) : Within F_ZERO F_ONE (fdiv sn d) := by
  have htwo := two_le_value_divisor hd
  apply fdiv_within (by decide) (by decide) hsn hd.finite (by linarith) <;> simp <;> linarith

end

/-! ### The coefficients from alpha and a0 = 1 + alpha (R51) -/

section
variable {α : F32} (hα : Within F_ZERO ALPHA_MAX α)
include hα

/-- Rounding keeps a0 ≥ alpha: what takes b0 and a2 to at most 1. -/
theorem a0_within_alpha : Within α MAX_FINITE (fadd F_ONE α) := by
  obtain ⟨hfin, -, hhigh⟩ := hα
  rw [value_ALPHA_MAX] at hhigh
  refine fadd_within hfin (by decide) (by decide) hfin (by simp) ?_
  rw [value_F_ONE, value_MAX_FINITE]
  linarith

theorem a0_within_one : Within F_ONE MAX_FINITE (fadd F_ONE α) := by
  obtain ⟨hfin, hlow, hhigh⟩ := hα
  rw [value_F_ZERO] at hlow
  rw [value_ALPHA_MAX] at hhigh
  apply fadd_within (by decide) (by decide) (by decide) hfin <;> simp <;> linarith

theorem one_le_value_a0 : 1 ≤ value (fadd F_ONE α) := value_F_ONE ▸ (a0_within_one hα).low

theorem a0_within_two (hle : value α ≤ 1) : Within F_ONE F_TWO (fadd F_ONE α) := by
  obtain ⟨hfin, hlow, -⟩ := hα
  rw [value_F_ZERO] at hlow
  apply fadd_within (by decide) (by decide) (by decide) hfin <;> simp <;> linarith

theorem b0_within : Within F_ZERO F_ONE (fdiv α (fadd F_ONE α)) := by
  have hone := one_le_value_a0 hα
  obtain ⟨ha0, hge, -⟩ := a0_within_alpha hα
  obtain ⟨hfin, hlow, -⟩ := hα
  rw [value_F_ZERO] at hlow
  apply fdiv_within (by decide) (by decide) hfin ha0 (by linarith) <;> simp <;> linarith

theorem b2_within : Within F_NEG_ONE F_ZERO (fneg (fdiv α (fadd F_ONE α))) := by
  obtain ⟨hfin, hlow, hhigh⟩ := b0_within hα
  refine ⟨by simpa using hfin, ?_, ?_⟩ <;> simp_all

/-- a1 is no larger than its dividend -2 cos(w), a0 being at least 1. -/
theorem a1_within {m twice cs : F32} (htwice : isFinite twice = true)
    (hval : value twice = 2 * value m) (hcs : Within (fneg m) m cs) :
    Within (fneg twice) twice (fdiv (fmul F_NEG_TWO cs) (fadd F_ONE α)) := by
  obtain ⟨hfin, hlow, hhigh⟩ := hcs
  rw [value_fneg] at hlow
  have hneg : isFinite (fneg twice) = true := by rwa [isFinite_fneg]
  have hnum : Within (fneg twice) twice (fmul F_NEG_TWO cs) := by
    apply fmul_within hneg htwice (by decide) hfin <;> simp <;> linarith
  exact fdiv_within_of_one_le hneg htwice (by rw [value_fneg]; linarith) (by linarith) hnum
    (a0_within_one hα).finite (one_le_value_a0 hα)

/-- a2's dividend 1 - alpha lies between -a0 and 1. -/
theorem a2_within : Within F_NEG_ONE F_ONE (fdiv (fsub F_ONE α) (fadd F_ONE α)) := by
  have hone := one_le_value_a0 hα
  obtain ⟨ha0, hge, -⟩ := a0_within_alpha hα
  obtain ⟨hfin, hlow, -⟩ := hα
  rw [value_F_ZERO] at hlow
  obtain ⟨hnum, hnumlow, hnumhigh⟩ : Within (fneg (fadd F_ONE α)) F_ONE (fsub F_ONE α) := by
    apply fsub_within (by simpa) (by decide) (by decide) hfin <;> simp <;> linarith
  rw [value_fneg] at hnumlow
  rw [value_F_ONE] at hnumhigh
  apply fdiv_within (by decide) (by decide) hnum ha0 (by linarith) <;> simp <;> linarith

theorem a2_within_of_alpha_le_one (hle : value α ≤ 1) :
    Within F_ZERO F_ONE (fdiv (fsub F_ONE α) (fadd F_ONE α)) := by
  have hone := one_le_value_a0 hα
  have ha0 := (a0_within_one hα).finite
  obtain ⟨hfin, hlow, -⟩ := hα
  rw [value_F_ZERO] at hlow
  have hnum : Within F_ZERO F_ONE (fsub F_ONE α) := by
    apply fsub_within (by decide) (by decide) (by decide) hfin <;> simp <;> linarith
  exact fdiv_within_of_one_le (by decide) (by decide) (by simp) (by simp) hnum ha0 hone

end

/-! ### The parameter commands' numbers (R68, R70, R71) -/

theorem pval_within (v : BitVec 16) : Within F_ZERO F_ONE (pval v) := by
  have hle : ((min v.toNat 1023 : Nat) : ℚ) ≤ 1023 := by exact_mod_cast Nat.min_le_right ..
  refine within_of_isNearest (by decide) (by decide) (parameterValueIsNearestFraction.1 v) ?_ ?_
  · rw [value_F_ZERO]
    positivity
  · rw [value_F_ONE, div_le_one (by norm_num)]
    exact hle

theorem rowIndex_within (k : Fin 4) : Within F_ZERO F_FOUR (f32OfInt k.val) := by
  have hk : ∀ k : Fin 4, fle F_ZERO (f32OfInt k.val) = true ∧ fle (f32OfInt k.val) F_FOUR = true := by
    decide +kernel
  exact within_of_fle (by decide) (by decide) (hk k).1 (hk k).2

theorem shapeIdf_within (v : BitVec 16) : Within F_ZERO F_FOUR (shapeIdf v) := by
  obtain ⟨hp, hlow, hhigh⟩ := pval_within v
  rw [value_F_ZERO] at hlow
  rw [value_F_ONE] at hhigh
  apply fmul_within (by decide) (by decide) hp (by decide) <;> simp <;> linarith

/-- The weight of the upper row, bounded only as far as finiteness needs. -/
theorem shapeOff_within (v : BitVec 16) : Within (fneg F_FOUR) F_FOUR (shapeOff v) := by
  obtain ⟨hk, hklow, hkhigh⟩ := rowIndex_within (shapeIdx v)
  obtain ⟨hf, hflow, hfhigh⟩ := shapeIdf_within v
  rw [value_F_ZERO] at hklow hflow
  rw [value_F_FOUR] at hkhigh hfhigh
  apply fsub_within (by decide) (by decide) hf hk <;> simp <;> linarith

/-- The weight of the lower row, bounded only as far as finiteness needs. -/
theorem shapeW0_within (v : BitVec 16) : Within (fneg F_EIGHT) F_EIGHT (shapeW0 v) := by
  obtain ⟨hoff, hlow, hhigh⟩ := shapeOff_within v
  rw [value_fneg, value_F_FOUR] at hlow
  rw [value_F_FOUR] at hhigh
  apply fsub_within (by decide) (by decide) (by decide) hoff <;> simp <;> linarith

theorem fle_of_flt {x y : F32} (h : flt x y = true) : fle x y = true := by
  obtain ⟨hx, hy, hlt⟩ := (flt_iff x y).mp h
  exact (fle_iff x y).mpr ⟨hx, hy, hlt.le⟩

theorem romRead_within {c : Config} (hc : c.Admitted) (k : Fin 5) (i : Fin 2) :
    Within F_ZERO F_FOUR (romRead c k i) := by
  obtain ⟨hpos, hpi⟩ := Bool.and_eq_true_iff.mp (hc.preset k i)
  have h : Within F_ZERO BELOW_PI (romRead c k i) :=
    within_of_fle (by decide) (by decide) (fle_of_flt hpos) hpi
  exact h.mono le_rfl (by decide +kernel)

/-- A weight of at most 8 in size times a preset entry. -/
theorem weighted_within {w p : F32} (hw : Within (fneg F_EIGHT) F_EIGHT w)
    (hp : Within F_ZERO F_FOUR p) : Within (fneg F_THIRTY_TWO) F_THIRTY_TWO (fmul w p) := by
  obtain ⟨hwfin, hwlow, hwhigh⟩ := hw
  obtain ⟨hpfin, hplow, hphigh⟩ := hp
  simp only [value_fneg, value_F_EIGHT] at hwlow hwhigh
  simp only [value_F_ZERO, value_F_FOUR] at hplow hphigh
  apply fmul_within (by decide) (by decide) hwfin hpfin <;> simp <;> nlinarith

theorem shapeFreq_within {c : Config} (hc : c.Admitted) (v : BitVec 16) (i : Fin 2) :
    Within (fneg F_SIXTY_FOUR) F_SIXTY_FOUR (shapeFreq c v i) := by
  have hoff : Within (fneg F_EIGHT) F_EIGHT (shapeOff v) :=
    (shapeOff_within v).mono (by norm_num) (by norm_num)
  obtain ⟨hl, hllow, hlhigh⟩ :=
    weighted_within (shapeW0_within v) (romRead_within hc (shapeIdx v).castSucc i)
  obtain ⟨hu, hulow, huhigh⟩ := weighted_within hoff (romRead_within hc (shapeIdx v).succ i)
  simp only [value_fneg, value_F_THIRTY_TWO] at hllow hlhigh hulow huhigh
  apply fadd_within (by decide) (by decide) hl hu <;> simp <;> linarith

/-- The upper bound is one that finiteness needs and no more: QSPAN is 16 - SQRT2 rounded up, so the exact sum can exceed 16. -/
theorem resonanceQ_within (v : BitVec 16) : Within SQRT2 F_THIRTY_TWO (resonanceQ v) := by
  obtain ⟨hp, hplow, hphigh⟩ := pval_within v
  rw [value_F_ZERO] at hplow
  rw [value_F_ONE] at hphigh
  obtain ⟨hm, hmlow, hmhigh⟩ : Within F_ZERO QSPAN (fmul (pval v) QSPAN) := by
    apply fmul_within (by decide) (by decide) hp (by decide) <;> simp <;> linarith
  rw [value_F_ZERO] at hmlow
  rw [value_QSPAN] at hmhigh
  apply fadd_within (by decide) (by decide) (by decide) hm <;> simp <;> linarith

theorem gainOf_within {q : F32} (hq : Within SQRT2 F_THIRTY_TWO q) :
    Within F_ONE F_SIXTY_FOUR (gainOf q) := by
  obtain ⟨hfin, hlow, hhigh⟩ := hq
  rw [value_SQRT2] at hlow
  rw [value_F_THIRTY_TWO] at hhigh
  have hsub : Within F_ZERO F_THIRTY_TWO (fsub q SQRT2) := by
    apply fsub_within (by decide) (by decide) hfin (by decide) <;> simp <;> linarith
  obtain ⟨hdiv, hdivlow, hdivhigh⟩ : Within F_ZERO F_THIRTY_TWO (fdiv (fsub q SQRT2) FIVE_SQRT2) :=
    fdiv_within_of_one_le (by decide) (by decide) (by simp) (by simp) hsub (by decide)
      (by norm_num)
  rw [value_F_ZERO] at hdivlow
  rw [value_F_THIRTY_TWO] at hdivhigh
  apply fadd_within (by decide) (by decide) (by decide) hdiv <;> simp <;> linarith

/-! ### R90 -/

/-- Settles O56: rounding keeps every bound that is a binary32, so each number of R51, R68, R70 and R71 is taken between the ones of its operands. -/
theorem setupRaisesNoFloatingPointException : Obligations.SetupRaisesNoFloatingPointException := by
  unfold Obligations.SetupRaisesNoFloatingPointException
  intro c hc
  refine ⟨fun w q _ hqlow hqhigh hsinpos hsin hcoslow hcoshigh => ?_, fun v => ?_⟩
  · have hpos : 0 < value (c.sin w) := value_F_ZERO ▸ (flt_iff_value_lt (by decide) hsin).mp hsinpos
    have hcos := within_of_fle (lo := fneg HALF_MAX_FINITE) (hi := HALF_MAX_FINITE)
      (by decide) (by decide) hcoslow hcoshigh
    have hd := divisor_within (within_of_fle (by decide) (by decide) hqlow hqhigh)
    have hα := alpha_within hsin hpos hd
    have ha0 := a0_within_one hα
    have ha1 := a1_within hα (twice := MAX_FINITE) (by decide) (by norm_num) hcos
    have hb0 := b0_within hα
    have hb2 := b2_within hα
    have ha2 := a2_within hα
    refine ⟨hd.fle_low (by decide), hd.fle_high (by decide),
      div_pos hpos (zero_lt_two.trans_le (two_le_value_divisor hd)),
      hα.fle_low (by decide), hα.finite, ha0.fle_low (by decide), ha0.finite,
      hb0.fle_low (by decide), hb0.fle_high (by decide), hb2.fle_low (by decide),
      hb2.fle_high (by decide), ha1.finite, ha2.fle_low (by decide),
      ha2.fle_high (by decide), fun hsine hunit => ?_⟩
    obtain ⟨-, hsinle⟩ := Bool.and_eq_true_iff.mp hsine
    obtain ⟨hcosge, hcosle⟩ := Bool.and_eq_true_iff.mp hunit
    have hα1 := alpha_within_unit hsin hpos hd
      (value_F_ONE ▸ (fle_iff_value_le hsin (by decide)).mp hsinle)
    have hle : value (fdiv (c.sin w) (fmul F_TWO q)) ≤ 1 := value_F_ONE ▸ hα1.high
    have hcos1 := within_of_fle (lo := fneg F_ONE) (hi := F_ONE) (by decide) (by decide) hcosge hcosle
    have ha1' := a1_within hα (twice := F_TWO) (by decide) (by norm_num) hcos1
    exact ⟨hα1.fle_high (by decide), (a0_within_two hα hle).fle_high (by decide),
      ha1'.fle_low (by decide), ha1'.fle_high (by decide),
      (a2_within_of_alpha_le_one hα hle).fle_low (by decide)⟩
  · have hp := pval_within v
    have hq := resonanceQ_within v
    exact ⟨hp.fle_low (by decide), hp.fle_high (by decide),
      fun i => (shapeFreq_within hc v i).finite, hq.finite, (gainOf_within hq).finite⟩

end Sys2Proof.Machine
end

section
/-! SUPPORT. The encoder and the assembler of spec/30_encoding.md: a packed command word as a number, so that each field is found again in it (R41, R48); decoding what was encoded (R46); the bits that no command reads (R40, R47); and the assembler on what a disassembler prints (R48, R49). -/

namespace Sys2Proof

/-! ### Packed words as numbers (R41, R48) -/

theorem or_eq_add_of_dvd {k a b : Nat} (ha : 2 ^ k ∣ a) (hb : b < 2 ^ k) : a ||| b = a + b := by
  obtain ⟨q, rfl⟩ := ha
  exact (Nat.two_pow_add_eq_or_of_lt hb q).symm

theorem toNat_setWidth_shiftLeft {n k : Nat} (x : BitVec n) (h : n + k ≤ 32) :
    (x.setWidth 32 <<< k).toNat = x.toNat * 2 ^ k := by
  have hx : x.toNat * 2 ^ k < 2 ^ 32 :=
    (Nat.mul_lt_mul_of_pos_right x.isLt (Nat.two_pow_pos k)).trans_le
      (Nat.pow_add 2 n k ▸ Nat.pow_le_pow_right (by decide) h)
  rw [BitVec.toNat_shiftLeft, BitVec.toNat_setWidth_of_le (by omega), Nat.shiftLeft_eq,
    Nat.mod_eq_of_lt hx]

theorem toNat_packNote (op : BitVec 4) (mid : BitVec 12) (hi lo : BitVec 8) :
    (packNote op mid hi lo).toNat =
      op.toNat * 2 ^ 28 + mid.toNat * 2 ^ 16 + hi.toNat * 2 ^ 8 + lo.toNat := by
  rw [packNote, BitVec.toNat_or, BitVec.toNat_or, BitVec.toNat_or,
    toNat_setWidth_shiftLeft op (by decide), toNat_setWidth_shiftLeft mid (by decide),
    toNat_setWidth_shiftLeft hi (by decide), BitVec.toNat_setWidth_of_le (by decide),
    or_eq_add_of_dvd (k := 28) (b := mid.toNat * 2 ^ 16),
    or_eq_add_of_dvd (k := 16) (b := hi.toNat * 2 ^ 8), or_eq_add_of_dvd (k := 8)] <;> omega

theorem toNat_packParam (index : BitVec 8) (value : BitVec 16) :
    (packParam index value).toNat = 5 * 2 ^ 28 + index.toNat * 2 ^ 16 + value.toNat := by
  rw [packParam, BitVec.toNat_or, BitVec.toNat_or, BitVec.toNat_ofNat,
    toNat_setWidth_shiftLeft index (by decide), BitVec.toNat_setWidth_of_le (by decide),
    or_eq_add_of_dvd (k := 28) (b := index.toNat * 2 ^ 16), or_eq_add_of_dvd (k := 16)] <;> omega

theorem toNat_packReserved (op : BitVec 4) (imm28 : BitVec 28) :
    (packReserved op imm28).toNat = op.toNat * 2 ^ 28 + imm28.toNat := by
  rw [packReserved, BitVec.toNat_or, toNat_setWidth_shiftLeft op (by decide),
    BitVec.toNat_setWidth_of_le (by decide), or_eq_add_of_dvd (k := 28)] <;> omega

/-! ### The fields of a packed word -/

/-- A field is found again in a word whose number has it at its place. -/
theorem ofNat_eq_of_mod_eq {n w : Nat} {x : BitVec n} (h : w % 2 ^ n = x.toNat) :
    BitVec.ofNat n w = x :=
  BitVec.eq_of_toNat_eq (by rw [BitVec.toNat_ofNat, h])

@[simp] theorem highByteField_packNote (op : BitVec 4) (mid : BitVec 12) (hi lo : BitVec 8) :
    highByteField (packNote op mid hi lo) = hi := by
  rw [highByteField_eq_ofNat, toNat_packNote]
  exact ofNat_eq_of_mod_eq (by omega)

@[simp] theorem lowByteField_packNote (op : BitVec 4) (mid : BitVec 12) (hi lo : BitVec 8) :
    lowByteField (packNote op mid hi lo) = lo := by
  rw [lowByteField_eq_ofNat, toNat_packNote]
  exact ofNat_eq_of_mod_eq (by omega)

@[simp] theorem framesField_packNote (op : BitVec 4) (mid : BitVec 12) (hi lo : BitVec 8) :
    framesField (packNote op mid hi lo) = mid := by
  rw [framesField_eq_ofNat, toNat_packNote]
  exact ofNat_eq_of_mod_eq (by omega)

@[simp] theorem indexField_packParam (index : BitVec 8) (value : BitVec 16) :
    indexField (packParam index value) = index := by
  rw [indexField_eq_ofNat, toNat_packParam]
  exact ofNat_eq_of_mod_eq (by omega)

@[simp] theorem valueField_packParam (index : BitVec 8) (value : BitVec 16) :
    valueField (packParam index value) = value := by
  rw [valueField_eq_ofNat, toNat_packParam]
  exact ofNat_eq_of_mod_eq (by omega)

@[simp] theorem imm28Field_packReserved (op : BitVec 4) (imm28 : BitVec 28) :
    imm28Field (packReserved op imm28) = imm28 := by
  rw [imm28Field_eq_ofNat, toNat_packReserved]
  exact ofNat_eq_of_mod_eq (by omega)

/-! ### Decoding and encoding (R46, R47) -/

open Laws.OpField in
/-- Settles O7, command by command: the packed word has the command's OP, and INDEX for SET_PARAM, and each field holds its operand. -/
theorem decodeOfEncodeIsIdentity : Obligations.DecodeOfEncodeIsIdentity := by
  unfold Obligations.DecodeOfEncodeIsIdentity
  intro i hi
  cases i with
  | nop => exact decode_of_op_zero (by decide)
  | init plat api => simp [decode_of_op_one, encode, opField_packNote]
  | render frames note bend lfo => simp [decode_of_op_two, encode, opField_packNote]
  | noteOn note bend => simp [decode_of_op_three, encode, opField_packNote]
  | noteOff note bend => simp [decode_of_op_four, encode, opField_packNote]
  | setRandvowel value =>
    simp [decode_of_op_five, decodeSetParam_of_index_zero, encode, opField_packParam]
  | setShape value =>
    simp [decode_of_op_five, decodeSetParam_of_index_one, encode, opField_packParam]
  | setResonance value =>
    simp [decode_of_op_five, decodeSetParam_of_index_two, encode, opField_packParam]
  | setpIgnored index value =>
    have h : 3 ≤ index.toNat := of_decide_eq_true hi
    simp [decode_of_op_five, decodeSetParam_of_three_le_index, encode, opField_packParam, h]
  | reserved op imm28 =>
    have h : 6 ≤ op.toNat := of_decide_eq_true hi
    have hop : opField (packReserved op imm28) = op := Laws.OpField.reserved op imm28
    simp [decode_of_six_le_op, encode, hop, h]

/-- OP has a row of its own up to 5, and the rest of its values is RESERVED (R44). -/
theorem op_cases (op : BitVec 4) :
    op = 0#4 ∨ op = 1#4 ∨ op = 2#4 ∨ op = 3#4 ∨ op = 4#4 ∨ op = 5#4 ∨ 6 ≤ op.toNat := by
  decide +revert

theorem index_cases (w : Word) : (indexField w).toNat = 0 ∨ (indexField w).toNat = 1 ∨
    (indexField w).toNat = 2 ∨ 3 ≤ (indexField w).toNat := by omega

theorem decodeSetParam_wellFormed (w : Word) : (decodeSetParam w).WellFormed := by
  rcases index_cases w with h | h | h | h
  · rw [decodeSetParam_of_index_zero h]; rfl
  · rw [decodeSetParam_of_index_one h]; rfl
  · rw [decodeSetParam_of_index_two h]; rfl
  · rw [decodeSetParam_of_three_le_index h]
    exact decide_eq_true h

theorem decode_wellFormed (c : Command) : (decode c).WellFormed := by
  rcases op_cases (opField c.cmd) with h | h | h | h | h | h | h
  · rw [decode_of_op_zero (by rw [h]; rfl)]; rfl
  · rw [decode_of_op_one (by rw [h]; rfl)]; rfl
  · rw [decode_of_op_two (by rw [h]; rfl)]; rfl
  · rw [decode_of_op_three (by rw [h]; rfl)]; rfl
  · rw [decode_of_op_four (by rw [h]; rfl)]; rfl
  · rw [decode_of_op_five (by rw [h]; rfl)]
    exact decodeSetParam_wellFormed c.cmd
  · rw [decode_of_six_le_op h]
    exact decide_eq_true h

/-- Settles O8: what the decoder answers is well formed, and the encoding of a well-formed command decodes to it. -/
theorem decodedCommandIsWellFormed : Obligations.DecodedCommandIsWellFormed := by
  unfold Obligations.DecodedCommandIsWellFormed
  exact fun c => ⟨decode_wellFormed c, decodeOfEncodeIsIdentity _ (decode_wellFormed c)⟩

/-- Settles O10: the decoder evaluated on the eleven words. -/
theorem sampleWordsDecode : Obligations.SampleWordsDecode := by
  unfold Obligations.SampleWordsDecode
  decide

end Sys2Proof

namespace Sys2Proof.Machine

open Sys2Proof.Claims

/-! ### Ignored bits (R40, R47) -/

theorem extractLsb'_congr_of_and {w v mask : Word} {start len : Nat}
    (hfield : mask.extractLsb' start len = BitVec.allOnes len) (h : w &&& mask = v &&& mask) :
    w.extractLsb' start len = v.extractLsb' start len :=
  (extractLsb'_eq_of_and_eq hfield h).trans (extractLsb'_eq_of_and_eq hfield rfl).symm

/-- OP is significant in every format (R41). -/
theorem opField_significantBits : ∀ op : BitVec 4, opField (significantBits op) = 15#4 := by decide

/-- The formats R, I and P have both low bytes in their significant bits (R41). -/
theorem noteFields_congr {w v : Word}
    (hop : opField w = 1#4 ∨ opField w = 2#4 ∨ opField w = 3#4 ∨ opField w = 4#4)
    (h : w &&& significantBits (opField w) = v &&& significantBits (opField w)) :
    highByteField w = highByteField v ∧ lowByteField w = lowByteField v := by
  have hbytes : ∀ op : BitVec 4, op = 1#4 ∨ op = 2#4 ∨ op = 3#4 ∨ op = 4#4 →
      highByteField (significantBits op) = 255#8 ∧ lowByteField (significantBits op) = 255#8 := by
    decide
  obtain ⟨hhigh, hlow⟩ := hbytes _ hop
  exact ⟨extractLsb'_congr_of_and hhigh h, extractLsb'_congr_of_and hlow h⟩

/-- Settles O9, OP by OP: the fields a command has are in its significant bits, and where the decoded commands can differ still (RESERVED) neither changes anything. -/
theorem ignoredBitsHaveNoEffect : Obligations.IgnoredBitsHaveNoEffect := by
  unfold Obligations.IgnoredBitsHaveNoEffect
  intro c d s hbits harg
  have hop : opField c.cmd = opField d.cmd :=
    extractLsb'_congr_of_and (opField_significantBits _) hbits
  rcases op_cases (opField c.cmd) with h | h | h | h | h | h | h
  · rw [decode_of_op_zero (by rw [h]; rfl), decode_of_op_zero (by rw [← hop, h]; rfl)]
  · obtain ⟨hhigh, hlow⟩ := noteFields_congr (by simp [h]) hbits
    rw [decode_of_op_one (by rw [h]; rfl), decode_of_op_one (by rw [← hop, h]; rfl), hhigh, hlow]
  · obtain ⟨hhigh, hlow⟩ := noteFields_congr (by simp [h]) hbits
    have hframes : framesField c.cmd = framesField d.cmd :=
      extractLsb'_congr_of_and (by rw [h]; decide) hbits
    rw [decode_of_op_two (by rw [h]; rfl), decode_of_op_two (by rw [← hop, h]; rfl), hhigh, hlow,
      hframes, harg h]
  · obtain ⟨hhigh, hlow⟩ := noteFields_congr (by simp [h]) hbits
    rw [decode_of_op_three (by rw [h]; rfl), decode_of_op_three (by rw [← hop, h]; rfl), hhigh,
      hlow]
  · obtain ⟨hhigh, hlow⟩ := noteFields_congr (by simp [h]) hbits
    rw [decode_of_op_four (by rw [h]; rfl), decode_of_op_four (by rw [← hop, h]; rfl), hhigh, hlow]
  · have hindex : indexField c.cmd = indexField d.cmd :=
      extractLsb'_congr_of_and (by rw [h]; decide) hbits
    have hvalue : valueField c.cmd = valueField d.cmd :=
      extractLsb'_congr_of_and (by rw [h]; decide) hbits
    rw [decode_of_op_five (by rw [h]; rfl), decode_of_op_five (by rw [← hop, h]; rfl),
      decodeSetParam, decodeSetParam, hindex, hvalue]
  · rw [decode_of_six_le_op h, decode_of_six_le_op (hop ▸ h), exec_eq_next, exec_eq_next, execState,
      execState]

/-! ### Assembling what a disassembler prints (R48) -/

/-- The operands written are all there and each is in its range (R48). -/
def Fits (rs : List (Nat × Nat)) (os : List Nat) : Prop :=
  List.Forall₂ (fun r o => r.1 ≤ o ∧ o < r.2) rs os

theorem asmOperands_of_fits {rs : List (Nat × Nat)} {os : List Nat} (h : Fits rs os) :
    asmOperands rs os = .ok os := by
  induction h with
  | nil => rfl
  | cons hfit _ ih => simp [asmOperands, hfit, ih]

theorem assemble_of_fits {t : AsmStmt} (h : Fits (asmRanges t.name) t.operands) :
    assemble t = .ok ⟨BitVec.ofNat 32 (asmCmd t.name t.operands),
      BitVec.ofNat 32 (asmArg t.name t.operands)⟩ := by
  rw [assemble, asmOperands_of_fits h]

theorem disassembleInstr_fits {i : Instr} (hi : i.WellFormed) :
    Fits (asmRanges (disassembleInstr i).name) (disassembleInstr i).operands := by
  have hfield {n : Nat} (x : BitVec n) : 0 ≤ x.toNat ∧ x.toNat < 2 ^ n := ⟨Nat.zero_le _, x.isLt⟩
  have hop (op : BitVec 4) (h : 6 ≤ op.toNat) : 6 ≤ op.toNat ∧ op.toNat < 16 := ⟨h, op.isLt⟩
  cases i with
  | nop => exact .nil
  | init plat api => exact .cons (hfield plat) (.cons (hfield api) .nil)
  | render frames note bend lfo =>
    exact .cons (hfield frames)
      (.cons (hfield note) (.cons (hfield bend) (.cons (hfield lfo) .nil)))
  | noteOn note bend => exact .cons (hfield note) (.cons (hfield bend) .nil)
  | noteOff note bend => exact .cons (hfield note) (.cons (hfield bend) .nil)
  | setRandvowel value => exact .cons (hfield value) .nil
  | setShape value => exact .cons (hfield value) .nil
  | setResonance value => exact .cons (hfield value) .nil
  | setpIgnored index value => exact .cons (hfield index) (.cons (hfield value) .nil)
  | reserved op imm28 => exact .cons (hop op (of_decide_eq_true hi)) (.cons (hfield imm28) .nil)

@[simp] theorem ofNat_toNat_shiftLeft {n : Nat} (x : BitVec n) (k : Nat) :
    BitVec.ofNat 32 (x.toNat <<< k) = x.setWidth 32 <<< k := by
  simp [← BitVec.toNat_inj, Nat.shiftLeft_eq, Nat.mod_mul_mod]

theorem words_of_disassembleInstr (i : Instr) :
    (⟨BitVec.ofNat 32 (asmCmd (disassembleInstr i).name (disassembleInstr i).operands),
      BitVec.ofNat 32 (asmArg (disassembleInstr i).name (disassembleInstr i).operands)⟩ : Command) =
      encode i := by
  cases i <;> simp [disassembleInstr, asmCmd, asmArg, encode, packNote, packParam, packReserved]

/-- Settles O11: the operands a disassembler prints are fields, so they fit, and the words assembled from them are the packed ones. -/
theorem assembleOfDisassembleIsEncode : Obligations.AssembleOfDisassembleIsEncode := by
  unfold Obligations.AssembleOfDisassembleIsEncode
  intro i hi
  rw [assemble_of_fits (disassembleInstr_fits hi), words_of_disassembleInstr]

/-! ### What the assembler takes (R48) -/

theorem asmOperands_cons_isOk_iff (lo hi : Nat) (rs : List (Nat × Nat)) (os : List Nat) :
    (∃ vs, asmOperands ((lo, hi) :: rs) os = .ok vs) ↔
      (lo ≤ os.headD 0 ∧ os.headD 0 < hi) ∧ ∃ vs, asmOperands rs os.tail = .ok vs := by
  by_cases hfit : lo ≤ os.headD 0 ∧ os.headD 0 < hi
  · simp only [asmOperands, hfit, true_and]
    cases asmOperands rs os.tail <;> simp
  · simp only [asmOperands, hfit, false_and, if_false, reduceCtorEq, exists_false]

theorem asmOperands_isOk_iff (rs : List (Nat × Nat)) (os : List Nat) :
    (∃ vs, asmOperands rs os = .ok vs) ↔ os.length ≤ rs.length ∧
      ∀ k lo hi : Nat, rs[k]? = some (lo, hi) → lo ≤ os.getD k 0 ∧ os.getD k 0 < hi := by
  induction rs generalizing os with
  | nil => cases os <;> simp [asmOperands]
  | cons r rs ih =>
    obtain ⟨lo, hi⟩ := r
    have hhead : os.headD 0 = os.getD 0 0 := by cases os <;> rfl
    have htail (k : Nat) : os.tail.getD k 0 = os.getD (k + 1) 0 := by cases os <;> simp
    rw [asmOperands_cons_isOk_iff, ih, hhead]
    simp only [htail, List.length_tail, List.length_cons, Nat.sub_le_iff_le_add]
    constructor
    · rintro ⟨hfirst, hlen, hrows⟩
      refine ⟨hlen, fun k lo' hi' hk => ?_⟩
      cases k with
      | zero =>
        obtain ⟨rfl, rfl⟩ : lo = lo' ∧ hi = hi' := by simpa using hk
        exact hfirst
      | succ k => exact hrows k lo' hi' hk
    · rintro ⟨hlen, hrows⟩
      exact ⟨hrows 0 lo hi rfl, hlen, fun k lo' hi' hk => hrows (k + 1) lo' hi' hk⟩

/-- Settles O12: a statement assembles where its operands in full are found, which is decided range by range. -/
theorem assemblerRefusesWhatDoesNotFit : Obligations.AssemblerRefusesWhatDoesNotFit := by
  unfold Obligations.AssemblerRefusesWhatDoesNotFit
  intro t
  rw [← asmOperands_isOk_iff]
  unfold assemble
  cases asmOperands (asmRanges t.name) t.operands <;> simp

/-! ### Pseudo-instructions (R49) -/

/-- The INDEX written out fits its field, so a pseudo-instruction is refused with its expansion or assembles to the same words (R49). -/
theorem assemble_eq_setp {name : AsmName} {index : Nat} (hranges : asmRanges name = [(0, 65536)])
    (hindex : index < 256) (v : Nat) (hcmd : asmCmd name [v] = asmCmd .setp [index, v])
    (harg : asmArg name [v] = asmArg .setp [index, v]) :
    assemble ⟨name, [v]⟩ = assemble ⟨.setp, [index, v]⟩ := by
  have hsetp : asmRanges .setp = [(0, 256), (0, 65536)] := rfl
  by_cases hv : v < 65536 <;> simp [assemble, hranges, hsetp, asmOperands, hindex, hv, hcmd, harg]

theorem disassemble_encode {i : Instr} (hi : i.WellFormed) :
    disassemble (encode i) = disassembleInstr i := by
  rw [disassemble, decodeOfEncodeIsIdentity i hi]

/-- Settles O13: each pseudo-instruction is `.setp` with its INDEX; a disassembler prints what the decoder answers. -/
theorem pseudoInstructionsExpand : Obligations.PseudoInstructionsExpand := by
  unfold Obligations.PseudoInstructionsExpand
  refine ⟨fun v => ⟨?_, ?_, ?_⟩, rfl, fun v => ⟨?_, ?_, ?_⟩, fun c hop => ?_⟩
  · exact assemble_eq_setp rfl (by decide) v rfl rfl
  · exact assemble_eq_setp rfl (by decide) v rfl rfl
  · exact assemble_eq_setp rfl (by decide) v rfl rfl
  · exact disassemble_encode (i := .setRandvowel v) rfl
  · exact disassemble_encode (i := .setShape v) rfl
  · exact disassemble_encode (i := .setResonance v) rfl
  · rw [← opField_toNat] at hop
    rw [disassemble, decode_of_six_le_op hop, disassembleInstr, opField_toNat, imm28Field_eq_ofNat,
      BitVec.toNat_ofNat]

end Sys2Proof.Machine
end

section
/-! SUPPORT. Steps and runs (spec/10_state.md R14, R23; spec/20_memory.md R36; spec/70_reset_and_hazards.md R100): a run of commands is the commands' states one after another, and no command sees the commands still to run. -/

namespace Sys2Proof.Machine

/-! ### One step -/

theorem step_of_cons {s : State} {c : Command} {rest : List Command} (h : s.cmds = c :: rest) :
    step s = exec (decode c) { s with cmds := rest } := by
  rw [step, fetch_cons h]

theorem step_of_nil {s : State} (h : s.cmds = []) : step s = .next s := by
  rw [step, fetch_nil h]

/-- Settles O1: `fetch` answers the next command decoded and takes it from the sequence. -/
theorem stepRunsNextCommand : Obligations.StepRunsNextCommand := by
  unfold Obligations.StepRunsNextCommand
  exact fun _ _ _ => step_of_cons

/-- Settles O2: `fetch` answers nothing. -/
theorem stepHoldsStateWithoutCommand : Obligations.StepHoldsStateWithoutCommand := by
  unfold Obligations.StepHoldsStateWithoutCommand
  exact fun _ => step_of_nil

theorem exists_step_eq_next (s : State) : ∃ t, step s = .next t := by
  cases h : s.cmds with
  | nil => exact ⟨s, step_of_nil h⟩
  | cons c rest => exact ⟨_, (step_of_cons h).trans (exec_eq_next _ _)⟩

/-- Settles O3: every command answers `execState`, and a step runs a command or holds the state. -/
theorem everyCommandCompletes : Obligations.EveryCommandCompletes := by
  unfold Obligations.EveryCommandCompletes
  exact ⟨fun c s => ⟨_, exec_eq_next (decode c) s⟩, exists_step_eq_next⟩

/-! ### No command sees the commands still to run -/

theorem frames_with_cmds (c : Config) (note : BitVec 8) (inc : F32) (n : Nat) (s : State)
    (cs : List Command) :
    frames c note inc n { s with cmds := cs } = { frames c note inc n s with cmds := cs } := by
  induction n generalizing s with
  | zero => rfl
  | succ n ih => exact ih (frame c note inc s)

theorem noteOnState_with_cmds (c : Config) (s : State) (cs : List Command) :
    noteOnState c { s with cmds := cs } = { noteOnState c s with cmds := cs } := by
  rcases Bool.eq_false_or_eq_true s.randFlag with h | h
  · rw [noteOnState_of_set h, noteOnState_of_set (s := { s with cmds := cs }) h]
    rfl
  · rw [noteOnState_of_clear h, noteOnState_of_clear (s := { s with cmds := cs }) h]

theorem execState_with_cmds (i : Instr) (s : State) (cs : List Command) :
    execState i { s with cmds := cs } = { execState i s with cmds := cs } := by
  cases i with
  | render n note bend lfo => exact frames_with_cmds ..
  | noteOn note bend => exact noteOnState_with_cmds ..
  | nop => rfl
  | init plat api => rfl
  | noteOff note bend => rfl
  | setRandvowel value => rfl
  | setShape value => rfl
  | setResonance value => rfl
  | setpIgnored index value => rfl
  | reserved op imm28 => rfl

/-! ### Runs -/

/-- The state after the commands of a list, run one after another from s. -/
def afterCommands (cs : List Command) (s : State) : State :=
  cs.foldl (fun s c => execState (decode c) s) s

theorem run_succ_of_step {s t : State} (h : step s = .next t) (k : Nat) :
    core.run (k + 1) s = core.run k t := by
  have hrun (M : Host.Core) (u v : M.State) (huv : M.step u = .next v) :
      M.run (k + 1) u = M.run k v := by
    rw [Host.Core.run, huv]
  exact hrun core s t h

/-- A run of as many steps as the first commands are leaves what they leave, and the later ones waiting. -/
theorem run_append (first later : List Command) (s : State) :
    core.run first.length { s with cmds := first ++ later } =
      .next { afterCommands first s with cmds := later } := by
  induction first generalizing s with
  | nil => rfl
  | cons c cs ih =>
    have hstep : step { s with cmds := c :: cs ++ later } =
        .next { execState (decode c) s with cmds := cs ++ later } := by
      rw [← execState_with_cmds, ← exec_eq_next]
      exact step_of_cons rfl
    exact (run_succ_of_step hstep _).trans (ih (execState (decode c) s))

/-- Settles O4: the first commands are the whole sequence. -/
theorem finiteRunEnds : Obligations.FiniteRunEnds := by
  unfold Obligations.FiniteRunEnds
  intro s
  have hrun := run_append s.cmds [] s
  rw [List.append_nil] at hrun
  exact ⟨_, hrun, rfl⟩

/-- Settles O5: both runs leave `afterCommands` of the first commands, and differ in what is waiting. -/
theorem laterCommandsDoNotReachBack : Obligations.LaterCommandsDoNotReachBack := by
  unfold Obligations.LaterCommandsDoNotReachBack
  intro s first later
  have hrun := run_append first [] s
  rw [List.append_nil] at hrun
  exact ⟨_, hrun, run_append first later s⟩

end Sys2Proof.Machine
end

section
/-! SUPPORT. RENDER and the OUT stream (spec/44_pipeline.md R80, R81; spec/20_memory.md R32): the words a RENDER appends, what its frames depend on, and that no command reads OUT. -/

namespace Sys2Proof.Machine

open Sys2Proof.Claims

/-! ### The frames of a RENDER (R81) -/

section
variable (c : Config) (note : BitVec 8) (inc : F32)

/-- The words that n frames append, oldest first. -/
def frameWords : Nat → State → List Word
  | 0, _ => []
  | n + 1, s => frameWord c note s :: frameWords n (frame c note inc s)

@[simp] theorem length_frameWords (n : Nat) (s : State) :
    (frameWords c note inc n s).length = n := by
  induction n generalizing s with
  | zero => rfl
  | succ n ih => rw [frameWords, List.length_cons, ih]

@[simp] theorem frames_out (n : Nat) (s : State) :
    (frames c note inc n s).out = s.out ++ frameWords c note inc n s := by
  induction n generalizing s with
  | zero => simp [frameWords]
  | succ n ih =>
    rw [frames_succ, ih, frame_out, frameWords, List.append_assoc, List.singleton_append]

@[simp] theorem frames_phase (n : Nat) (s : State) :
    (frames c note inc n s).phase = (fun p => nextPhase p inc)^[n] s.phase := by
  induction n generalizing s with
  | zero => rfl
  | succ n ih => rw [frames_succ, ih, frame_phase, Function.iterate_succ_apply]

/-- n frames write PHASE, the delay registers, OUT and the noise counter, and nothing else (R26). -/
theorem frames_eq_withDelays (n : Nat) (s : State) :
    frames c note inc n s = withDelays
      { s with
        phase := (frames c note inc n s).phase
        out := (frames c note inc n s).out
        noiseCount := s.noiseCount + n }
      (frames c note inc n s).bq0.z1 (frames c note inc n s).bq0.z2
      (frames c note inc n s).bq1.z1 (frames c note inc n s).bq1.z2 := by
  induction n generalizing s with
  | zero => rfl
  | succ n ih =>
    rw [frames_succ]
    refine (ih (frame c note inc s)).trans ?_
    simp [withDelays, Nat.add_comm, Nat.add_left_comm]

theorem frames_add (m n : Nat) (s : State) :
    frames c note inc (m + n) s = frames c note inc n (frames c note inc m s) := by
  induction m generalizing s with
  | zero => rw [Nat.zero_add, frames_zero]
  | succ m ih => rw [Nat.succ_add, frames_succ, ih, frames_succ]

end

/-- Settles O34: OP 2 is RENDER, whose state is that of its frames. -/
theorem renderAppendsFramesWords : Obligations.RenderAppendsFramesWords := by
  unfold Obligations.RenderAppendsFramesWords
  refine ⟨fun c hcmd => decode_of_op_two ?_, fun n note bend lfo s => ?_⟩
  · rw [opField_eq_of_and_eq (by decide) hcmd]
    decide
  · refine ⟨_, frameWords Config.chip note (oscInc Config.chip note bend) n.toNat s,
      exec_eq_next _ s, length_frameWords .., frames_phase .., ?_⟩
    rw [← frames_out]
    exact frames_eq_withDelays ..

/-- Settles O35: the state of RENDER 1 is by definition one frame, whose stages are the pseudocode's in its order. -/
theorem renderOneFrame : Obligations.RenderOneFrame := by
  unfold Obligations.RenderOneFrame
  intro note bend lfo s
  exact exec_eq_next (.render 1#12 note bend lfo) s

/-- Settles O36: no frames leave the state, and m + n frames are m frames and then n. -/
theorem renderSplits : Obligations.RenderSplits := by
  unfold Obligations.RenderSplits
  intro m n note bend l1 l2 l3 s
  refine ⟨exec_eq_next (.render 0#12 note bend l1) s, fun hlt => ?_⟩
  refine ⟨_, _, exec_eq_next _ s, exec_eq_next _ _, ?_⟩
  rw [exec_eq_next, execState, renderState, BitVec.toNat_add_of_lt hlt, frames_add]
  rfl

/-! ### What a RENDER reads (R26, R81) -/

section
variable {s t : State} (h : SameRenderInputs s t) (c : Config) (note : BitVec 8) (inc : F32)
include h

theorem SameRenderInputs.frameWord_eq : frameWord c note s = frameWord c note t := by
  obtain ⟨hbq0, hbq1, hphase, hg, hnoise⟩ := h
  rw [frameWord, frameWord, bankOut, bankOut, hbq0, hbq1, hphase, hg, hnoise]

theorem SameRenderInputs.frame : SameRenderInputs (frame c note inc s) (frame c note inc t) := by
  obtain ⟨hbq0, hbq1, hphase, hg, hnoise⟩ := h
  constructor <;> simp [hbq0, hbq1, hphase, hg, hnoise]

end

theorem SameRenderInputs.frames {s t : State} (h : SameRenderInputs s t) (c : Config)
    (note : BitVec 8) (inc : F32) (n : Nat) :
    SameRenderInputs (frames c note inc n s) (frames c note inc n t) ∧
      frameWords c note inc n s = frameWords c note inc n t := by
  induction n generalizing s t with
  | zero => exact ⟨h, rfl⟩
  | succ n ih =>
    obtain ⟨hsame, hwords⟩ := ih (h.frame c note inc)
    exact ⟨hsame, by rw [frameWords, frameWords, h.frameWord_eq, hwords]⟩

/-- Settles O38: a frame's word and registers depend on RENDER's inputs only, so frame by frame the inputs stay the same. -/
theorem renderReadsOnlyItsInputs : Obligations.RenderReadsOnlyItsInputs := by
  unfold Obligations.RenderReadsOnlyItsInputs
  intro n note bend lfo s t h
  obtain ⟨hsame, hwords⟩ := h.frames Config.chip note (oscInc Config.chip note bend) n.toNat
  exact ⟨_, _, _, exec_eq_next _ s, exec_eq_next _ t, hsame, frames_out ..,
    hwords ▸ frames_out ..⟩

/-! ### OUT is append-only and never read (R32) -/

/-- Settles O40, command by command: RENDER appends its words, INIT leaves the reset state, and the others keep OUT. -/
theorem outIsAppendOnly : Obligations.OutIsAppendOnly := by
  unfold Obligations.OutIsAppendOnly
  intro i s t h
  obtain rfl := exec_eq_next_iff.mp h
  cases i with
  | init plat api => exact .inl ⟨⟨plat, api, rfl⟩, rfl⟩
  | render n note bend lfo =>
    exact .inr (.inl ⟨n, note, bend, lfo, rfl, _, length_frameWords .., frames_out ..⟩)
  | noteOn note bend =>
    cases hflag : s.randFlag with
    | false => simp [noteOnState_of_clear hflag]
    | true => simp [noteOnState_of_set hflag]
  | nop => exact .inr (.inr rfl)
  | noteOff note bend => exact .inr (.inr rfl)
  | setRandvowel value => exact .inr (.inr rfl)
  | setShape value => exact .inr (.inr rfl)
  | setResonance value => exact .inr (.inr rfl)
  | setpIgnored index value => exact .inr (.inr rfl)
  | reserved op imm28 => exact .inr (.inr rfl)

/-- The states are equal but for OUT. -/
def SameButOut (s t : State) : Prop := ∃ ws : List Word, t = { s with out := ws }

theorem SameButOut.frames {s t : State} (h : SameButOut s t) (c : Config) (note : BitVec 8)
    (inc : F32) (n : Nat) : SameButOut (frames c note inc n s) (frames c note inc n t) := by
  induction n generalizing s t with
  | zero => exact h
  | succ n ih =>
    obtain ⟨ws, rfl⟩ := h
    exact ih ⟨ws ++ [frameWord c note s], rfl⟩

theorem SameButOut.noteOnState {s t : State} (h : SameButOut s t) (c : Config) :
    SameButOut (noteOnState c s) (noteOnState c t) := by
  obtain ⟨ws, rfl⟩ := h
  rcases Bool.eq_false_or_eq_true s.randFlag with h | h
  · rw [noteOnState_of_set h, noteOnState_of_set (s := { s with out := ws }) h]
    exact ⟨ws, rfl⟩
  · rw [noteOnState_of_clear h, noteOnState_of_clear (s := { s with out := ws }) h]
    exact ⟨ws, rfl⟩

theorem SameButOut.execState {s t : State} (h : SameButOut s t) (i : Instr) :
    SameButOut (execState i s) (execState i t) := by
  cases i with
  | render n note bend lfo => exact h.frames ..
  | noteOn note bend => exact h.noteOnState _
  | nop => exact h
  | init plat api => obtain ⟨ws, rfl⟩ := h; exact ⟨[], rfl⟩
  | noteOff note bend => exact h
  | setRandvowel value => obtain ⟨ws, rfl⟩ := h; exact ⟨ws, rfl⟩
  | setShape value => obtain ⟨ws, rfl⟩ := h; exact ⟨ws, rfl⟩
  | setResonance value => obtain ⟨ws, rfl⟩ := h; exact ⟨ws, rfl⟩
  | setpIgnored index value => exact h
  | reserved op imm28 => exact h

/-- Settles O41: states equal but for OUT are so after any command. -/
theorem outIsNeverRead : Obligations.OutIsNeverRead := by
  unfold Obligations.OutIsNeverRead
  intro i s t ws h
  obtain rfl := exec_eq_next_iff.mp h
  obtain ⟨ws', hout⟩ := SameButOut.execState (s := s) ⟨ws, rfl⟩ i
  exact ⟨_, exec_eq_next i _, by rw [hout]⟩

end Sys2Proof.Machine
end

section
/-! SUPPORT. binary32 results are the exact ones rounded once (spec/00_scope.md R9, R10), and what follows for a rounded number: it is exact where the exact result is a binary32, it is near the exact result, and rounding keeps order. -/

namespace Sys2Proof.Machine

/-! ### Overflow to infinity -/

/-- From the overflow bound on, (2 ^ 25 - 1) * 2 ^ 252 units, a number rounds to infinity. -/
theorem roundMag_eq_inf {n d : Nat} (hd : 0 < d) (h : (2 ^ 25 - 1) * 2 ^ 252 * d ≤ n) :
    roundMag n d = 0x7F800000 := by
  have hsig := roundSig_lt n d
  have hn := step_mul_roundSig_add_roundRem n d
  have hexp : 253 ≤ roundExp n d := by
    have hlog : 252 + 24 ≤ Nat.log2 (n / d) := by
      have hquot : 2 ^ 252 * 2 ^ 24 ≤ n / d := by
        rw [Nat.le_div_iff_mul_le hd]
        omega
      exact (Nat.le_log2 (by omega)).mpr (Nat.pow_add 2 252 24 ▸ hquot)
    unfold roundExp
    omega
  have hlead : 2 ^ 23 ≤ roundSig n d := by
    have := roundExp_eq_zero_or_le_roundSig n d
    omega
  rcases Nat.lt_or_eq_of_le hexp with hlt | htop
  · rcases roundMag_cases n d with ⟨hmag, -, -⟩ | ⟨hmag, -, -⟩ <;> omega
  · rw [← htop] at hn
    have hrem : roundRem n d < d * 2 ^ 253 := htop ▸ Nat.mod_lt _ (by positivity)
    have hfull : roundSig n d = 2 ^ 24 - 1 := by
      by_contra hne
      have hle : d * 2 ^ 253 * roundSig n d ≤ d * 2 ^ 253 * (2 ^ 24 - 2) :=
        Nat.mul_le_mul_left _ (by omega)
      omega
    rw [hfull] at hn
    rcases roundMag_cases n d with ⟨-, hhalf, htie⟩ | ⟨hmag, -, -⟩
    · rw [← htop] at hhalf htie
      have := htie (by omega)
      omega
    · omega

/-- `roundSigned` is correct rounding of ± n / d units (R9). -/
theorem roundSigned_roundsTo (s : Bool) {n d : Nat} (hd : 0 < d) {r : ℚ}
    (hr : r = signFactor s * ((n / d : ℚ) / 2 ^ 149)) : RoundsTo r (roundSigned s n d) := by
  have habs : |r| = (n / d : ℚ) / 2 ^ 149 := by
    rw [hr, abs_mul, abs_signFactor, one_mul, abs_of_nonneg (by positivity)]
  unfold RoundsTo
  split
  · next hlt => exact hr ▸ roundSigned_isNearest_of_lt s hd (habs ▸ hlt)
  · next hge =>
    rw [habs, not_lt, overflowBound, le_div_iff₀ (by positivity),
      le_div_iff₀ (by positivity)] at hge
    have hbound : (2 ^ 25 - 1) * 2 ^ 252 * d ≤ n := by
      have hcast : (((2 ^ 25 - 1) * 2 ^ 252 * d : Nat) : ℚ) ≤ n := by
        push_cast
        linarith
      exact_mod_cast hcast
    have hn : 0 < n := by omega
    have hpos : (0 : ℚ) < (n / d : ℚ) / 2 ^ 149 := by positivity
    have hsign : decide (r < 0) = s := by
      cases s <;> simp [hr, signFactor, hpos, hpos.le]
    rw [hsign, roundSigned, roundMag_eq_inf hd hbound]

/-! ### The operations are correctly rounded (R9) -/

section
variable {x y : F32} (hx : isFinite x = true) (hy : isFinite y = true)
include hx hy

theorem sumAs_roundsTo (op : FOp) (x0 y0 : F32) :
    RoundsTo (value x + value y) (sumAs op x0 y0 x y) := by
  obtain ⟨s, hsum, hval⟩ := sumAs_eq_roundSigned hx hy op x0 y0
  rw [hsum]
  refine roundSigned_roundsTo s one_pos ?_
  rw [Nat.cast_one, div_one, ← mul_div_assoc, ← hval, value, value, Int.cast_add, add_div]

theorem fmul_of_finite :
    fmul x y = roundSigned (fsign x != fsign y) (units x * units y) (2 ^ 149) := by
  simp [fmul, isNaN_eq_false_of_isFinite, isInf_eq_false_of_isFinite, hx, hy]

theorem fadd_roundsTo : RoundsTo (value x + value y) (fadd x y) := by
  rw [fadd_eq]
  exact sumAs_roundsTo hx hy ..

theorem fsub_roundsTo : RoundsTo (value x - value y) (fsub x y) := by
  rw [fsub_eq, sub_eq_add_neg, ← value_fneg]
  exact sumAs_roundsTo hx (by simpa using hy) ..

theorem fmul_roundsTo : RoundsTo (value x * value y) (fmul x y) := by
  rw [fmul_of_finite hx hy]
  refine roundSigned_roundsTo _ (by positivity) ?_
  rw [value_eq_signFactor_mul, value_eq_signFactor_mul, signFactor_bne]
  push_cast
  ring

theorem fdiv_roundsTo (h0 : value y ≠ 0) : RoundsTo (value x / value y) (fdiv x y) := by
  have hunits : units y ≠ 0 := by
    intro h
    simp [value_eq_signFactor_mul y, h] at h0
  rw [fdiv_of_finite hx hy (mt (units_eq_zero_iff y).mpr hunits)]
  refine roundSigned_roundsTo _ (Nat.pos_of_ne_zero hunits) ?_
  have hinv : (signFactor (fsign y))⁻¹ = signFactor (fsign y) := by
    cases fsign y <;> simp [signFactor]
  rw [value_eq_signFactor_mul x, value_eq_signFactor_mul y, signFactor_bne, div_eq_mul_inv, mul_inv,
    hinv]
  push_cast
  field_simp
  ring

end

/-- Settles O50: the sum of the units, rounded once. -/
theorem sumsAreCorrectlyRounded : Obligations.SumsAreCorrectlyRounded := by
  unfold Obligations.SumsAreCorrectlyRounded
  exact fun _ _ hx hy => ⟨fadd_roundsTo hx hy, fsub_roundsTo hx hy⟩

/-- Settles O51: the product of the units, rounded once. -/
theorem productsAreCorrectlyRounded : Obligations.ProductsAreCorrectlyRounded := by
  unfold Obligations.ProductsAreCorrectlyRounded
  exact fun _ _ => fmul_roundsTo

/-- Settles O52: the quotient of the units, rounded once. -/
theorem quotientsAreCorrectlyRounded : Obligations.QuotientsAreCorrectlyRounded := by
  unfold Obligations.QuotientsAreCorrectlyRounded
  exact fun _ _ => fdiv_roundsTo

/-! ### The integer functions (R10) -/

theorem value_eq_intCast_div (x : F32) : value x = (sunits x : ℚ) / (2 ^ 149 : ℕ) := by
  rw [value, Nat.cast_pow, Nat.cast_ofNat]

theorem floorInt_eq_floor {x : F32} (hx : isFinite x = true) : floorInt x = ⌊value x⌋ := by
  rw [value_eq_intCast_div, Rat.floor_intCast_div_natCast, floorInt, whenKnown_eq, if_pos hx,
    Int.fdiv_eq_ediv_of_nonneg _ (by positivity)]
  rfl

theorem truncInt_eq_ratTrunc {x : F32} (hx : isFinite x = true) :
    truncInt x = ratTrunc (value x) := by
  rw [value_eq_intCast_div, ratTrunc_intCast_div_natCast _ (by positivity), truncInt, whenKnown_eq,
    if_pos hx]
  rfl

theorem f32OfInt_negSucc (n : Nat) : f32OfInt (Int.negSucc n) = fneg (f32OfInt (n + 1 : Nat)) := by
  rw [f32OfInt_natCast]
  exact pack_inj (by simp [f32OfInt]) (by simp [f32OfInt])

theorem value_f32OfInt_natCast {n : Nat} (h : n < 2 ^ 24) : value (f32OfInt n) = n := by
  rw [value_eq_signFactor_mul, units_f32OfInt_natCast h, f32OfInt_natCast, fsign_roundSigned,
    signFactor, if_neg Bool.false_ne_true, Nat.cast_mul, Nat.cast_pow, Nat.cast_ofNat, one_mul,
    mul_div_cancel_right₀ _ (by positivity)]

/-- An integer operand of at most 24 bits is exact (R9, R10). -/
theorem f32OfInt_exact {n : Int} (h : n.natAbs < 2 ^ 24) :
    isFinite (f32OfInt n) = true ∧ value (f32OfInt n) = n := by
  cases n with
  | ofNat n => exact ⟨isFinite_f32OfInt_natCast h, value_f32OfInt_natCast h⟩
  | negSucc n =>
    have hn : n + 1 < 2 ^ 24 := h
    rw [f32OfInt_negSucc, isFinite_fneg, value_fneg, value_f32OfInt_natCast hn, Int.cast_negSucc]
    exact ⟨isFinite_f32OfInt_natCast hn, rfl⟩

/-- Settles O53: floor and trunc divide the units by 2 ^ 149, and an integer operand has no rest to round. -/
theorem exactFunctionsAreExact : Obligations.ExactFunctionsAreExact := by
  unfold Obligations.ExactFunctionsAreExact
  exact ⟨fun x _ => value_fneg x, fun _ hx => ⟨floorInt_eq_floor hx, truncInt_eq_ratTrunc hx⟩,
    fun _ => f32OfInt_exact⟩

/-! ### A rounded number is near the exact one and keeps order -/

/-- A whole number of at most 24 bits of steps leaves nothing to round. -/
theorem roundRem_mul_two_pow {n : Nat} (h : n < 2 ^ 24) (e : Nat) : roundRem (n * 2 ^ e) 1 = 0 := by
  have hexp : roundExp (n * 2 ^ e) 1 ≤ e := by
    rw [roundExp, Nat.div_one]
    by_cases h0 : n * 2 ^ e = 0
    · simp [h0]
    · have hlt : n * 2 ^ e < 2 ^ (24 + e) := by
        rw [Nat.pow_add]
        exact Nat.mul_lt_mul_of_pos_right h (Nat.two_pow_pos e)
      have := (Nat.log2_lt h0).mpr hlt
      omega
  rw [roundRem, Nat.one_mul]
  exact Nat.mod_eq_zero_of_dvd (Dvd.dvd.mul_left (Nat.pow_dvd_pow 2 hexp) n)

theorem roundSigned_mul_two_pow_exact (s : Bool) {n e : Nat} (hn : n < 2 ^ 24) (he : e ≤ 149) :
    isFinite (roundSigned s (n * 2 ^ e) 1) = true ∧
      units (roundSigned s (n * 2 ^ e) 1) = n * 2 ^ e := by
  have hpow : n * 2 ^ e ≤ n * 2 ^ 149 := Nat.mul_le_mul_left _ (Nat.pow_le_pow_right (by decide) he)
  have hfin : roundMag (n * 2 ^ e) 1 < 0x7F800000 := roundMag_lt_inf (by omega)
  have hrem := roundRem_mul_two_pow hn e
  have hsteps := step_mul_roundSig_add_roundRem (n * 2 ^ e) 1
  rw [hrem, Nat.one_mul, Nat.add_zero, Nat.mul_comm] at hsteps
  refine ⟨by simpa [isFinite] using hfin, ?_⟩
  rcases roundMag_cases (n * 2 ^ e) 1 with ⟨hmag, -, -⟩ | ⟨-, hhalf, -⟩
  · rw [units_roundSigned_eq s hfin hmag (by omega) (by omega), hsteps]
  · have hpos := Nat.two_pow_pos (roundExp (n * 2 ^ e) 1)
    omega

/-- Every multiple of 2 ^ -m with a numerator of at most 24 bits is a binary32. -/
theorem exists_value_eq_div_two_pow {n : ℤ} {m : ℕ} (hn : n.natAbs < 2 ^ 24) (hm : m ≤ 149) :
    ∃ y : F32, isFinite y = true ∧ value y = n / 2 ^ m := by
  obtain ⟨hfin, hunits⟩ := roundSigned_mul_two_pow_exact (decide (n < 0)) hn (Nat.sub_le 149 m)
  have hscale : (2 : ℚ) ^ 149 = 2 ^ (149 - m) * 2 ^ m := by rw [← pow_add, Nat.sub_add_cancel hm]
  have hcast : ((n.natAbs : ℤ) : ℚ) = n.natAbs := Int.cast_natCast _
  refine ⟨_, hfin, ?_⟩
  rw [value_eq_signFactor_mul, hunits, fsign_roundSigned, hscale, Nat.cast_mul, Nat.cast_pow,
    Nat.cast_ofNat, mul_comm (n.natAbs : ℚ), mul_div_mul_left _ _ (by positivity)]
  rcases lt_or_ge n 0 with hneg | hpos
  · simp [signFactor, hneg, ← hcast, Int.ofNat_natAbs_of_nonpos hneg.le, neg_div]
  · simp [signFactor, hpos.not_gt, ← hcast, Int.natAbs_of_nonneg hpos]

section
variable {r : ℚ} {x : F32} (h : IsNearest r x)
include h

/-- The nearest binary32 to a binary32 is that number. -/
theorem IsNearest.value_eq {y : F32} (hy : isFinite y = true) (hr : r = value y) : value x = r := by
  have hle := h.nearest y hy
  rw [hr, sub_self, abs_zero, ← hr] at hle
  exact (sub_eq_zero.mp (abs_nonpos_iff.mp hle)).symm

/-- Where steps of 2 ^ -m are binary32 numbers, rounding is off by half a step at most. -/
theorem IsNearest.abs_sub_le {m : ℕ} (hm : m ≤ 149) (hr : |r| * 2 ^ m ≤ 2 ^ 24 - 1) :
    |r - value x| ≤ 1 / 2 ^ (m + 1) := by
  have hhalf : |r * 2 ^ m - round (r * 2 ^ m)| ≤ 1 / 2 := abs_sub_round _
  have hnum : (round (r * 2 ^ m)).natAbs < 2 ^ 24 := by
    have habs : |(round (r * 2 ^ m) : ℚ)| < 2 ^ 24 := by
      rw [← abs_of_pos (show (0 : ℚ) < 2 ^ m by positivity), ← abs_mul] at hr
      have htri := abs_sub_abs_le_abs_sub (round (r * 2 ^ m) : ℚ) (r * 2 ^ m)
      rw [abs_sub_comm] at htri
      linarith
    rw [← Int.cast_abs, Int.abs_eq_natAbs] at habs
    exact_mod_cast habs
  obtain ⟨y, hy, hval⟩ := exists_value_eq_div_two_pow hnum hm
  calc |r - value x| ≤ |r - value y| := h.nearest y hy
    _ = |r * 2 ^ m - round (r * 2 ^ m)| / 2 ^ m := by
      rw [hval, ← abs_of_pos (show (0 : ℚ) < 2 ^ m by positivity), ← abs_div,
        abs_of_pos (show (0 : ℚ) < 2 ^ m by positivity)]
      congr 1
      field_simp
    _ ≤ 1 / 2 / 2 ^ m := by gcongr
    _ = 1 / 2 ^ (m + 1) := by rw [pow_succ]; ring

/-- A number below the middle between two neighbours does not round above the lower one. -/
theorem IsNearest.value_le {lo hi : F32} (hlo : isFinite lo = true) (hhi : isFinite hi = true)
    (hnext : fkey hi = fkey lo + 1) (hr : 2 * r < value lo + value hi) : value x ≤ value lo := by
  by_contra hgt
  have hkey : fkey lo < fkey x := by
    rwa [value_le_value_iff h.finite hlo, not_le] at hgt
  have hge : value hi ≤ value x := (value_le_value_iff hhi h.finite).mpr (by omega)
  have hnear := h.nearest lo hlo
  rw [abs_sub_comm r, abs_of_nonneg (by linarith)] at hnear
  rcases abs_cases (r - value lo) with ⟨habs, -⟩ | ⟨habs, -⟩ <;> linarith

end

theorem RoundsTo.isNearest {r : ℚ} {x : F32} (h : RoundsTo r x) (hr : |r| < overflowBound) :
    IsNearest r x := (if_pos hr).mp h

theorem RoundsTo.abs_sub_le {r : ℚ} {x : F32} (h : RoundsTo r x) {m : ℕ} (hm : m ≤ 149)
    (hr : |r| * 2 ^ m ≤ 2 ^ 24 - 1) : |r - value x| ≤ 1 / 2 ^ (m + 1) := by
  have hsmall : |r| ≤ |r| * 2 ^ m := le_mul_of_one_le_right (abs_nonneg r) (one_le_pow₀ one_le_two)
  refine (h.isNearest ?_).abs_sub_le hm hr
  rw [overflowBound]
  linarith

theorem RoundsTo.value_le {r : ℚ} {x lo hi : F32} (h : RoundsTo r x) (hlo : isFinite lo = true)
    (hhi : isFinite hi = true) (hnext : fkey hi = fkey lo + 1) (h0 : 0 ≤ r)
    (hr : 2 * r < value lo + value hi) : value x ≤ value lo := by
  refine (h.isNearest ?_).value_le hlo hhi hnext hr
  have hlo' := (le_abs_self _).trans_lt (abs_value_lt_overflowBound hlo)
  have hhi' := (le_abs_self _).trans_lt (abs_value_lt_overflowBound hhi)
  rw [abs_of_nonneg h0]
  linarith

end Sys2Proof.Machine
end

section
/-! SUPPORT. The codes of a configuration (spec/00_scope.md R7): every admitted number has one. -/

namespace Sys2Proof.Machine

theorem ofNat_fmag_of_pos {x : F32} (h : fsign x = false) : BitVec.ofNat 32 (fmag x) = x := by
  have hpack : pack (fsign x) (fmag x) = BitVec.ofNat 32 (fmag x) := by rw [h]; rfl
  rw [← hpack, pack_sign_mag]

theorem fkey_of_pos {x : F32} (h : fsign x = false) : fkey x = fmag x := by simp [fkey, h]

theorem fkey_of_neg {x : F32} (h : fsign x = true) : fkey x = -fmag x := by simp [fkey, h]

theorem exists_presetWord {w : F32} (h : inOpenPi w = true) : ∃ m, Config.presetWord m = w := by
  obtain ⟨hpos, hpi⟩ := Bool.and_eq_true_iff.mp h
  obtain ⟨-, -, hlow⟩ := (flt_iff _ _).mp hpos
  obtain ⟨-, -, hhigh⟩ := (fle_iff _ _).mp hpi
  have hends : fkey F_ZERO = 0 ∧ fkey BELOW_PI = 0x40490FDA := by decide
  have hsign : fsign w = false := by
    by_contra hs
    have hkey := fkey_of_neg (Bool.not_eq_false _ ▸ hs)
    omega
  have hkey := fkey_of_pos hsign
  refine ⟨⟨fmag w - 1, by omega⟩, ?_⟩
  rw [Config.presetWord, Nat.sub_add_cancel (by omega), ofNat_fmag_of_pos hsign]

theorem inUnit_iff (x : F32) : inUnit x = true ↔ fmag x ≤ 0x3F800000 := by
  have hends : fkey F_NEG_ONE = -0x3F800000 ∧ fkey F_ONE = 0x3F800000 := by decide
  have hmag := natAbs_fkey x
  rw [inUnit, Bool.and_eq_true]
  constructor
  · rintro ⟨hge, hle⟩
    obtain ⟨-, -, hlow⟩ := (fle_iff _ _).mp hge
    obtain ⟨-, -, hhigh⟩ := (fle_iff _ _).mp hle
    omega
  · intro h
    exact ⟨fle_of_fkey (by decide) (by omega) (by omega),
      fle_of_fkey (by omega) (by decide) (by omega)⟩

theorem exists_unitWord {x : F32} (h : inUnit x = true) : ∃ m, Config.unitWord m = x :=
  ⟨(fsign x, ⟨fmag x, Nat.lt_succ_of_le ((inUnit_iff x).mp h)⟩), pack_sign_mag x⟩

theorem exists_phaseWord {x : F32} (h : isPhase x = true) : ∃ m, Config.phaseWord m = x := by
  obtain ⟨hge, hlt⟩ := Bool.and_eq_true_iff.mp h
  obtain ⟨-, -, hlow⟩ := (fle_iff _ _).mp hge
  obtain ⟨-, -, hhigh⟩ := (flt_iff _ _).mp hlt
  have hends : fkey F_ZERO = 0 ∧ fkey F_ONE = 0x3F800000 := by decide
  cases hsign : fsign x with
  | false =>
    have hkey := fkey_of_pos hsign
    refine ⟨⟨fmag x, by omega⟩, ?_⟩
    rw [Config.phaseWord, if_neg (by show fmag x ≠ _; omega), ofNat_fmag_of_pos hsign]
  | true =>
    have hkey := fkey_of_neg hsign
    have hzero : fmag x = 0 := by omega
    refine ⟨⟨0x3F800000, by decide⟩, ?_⟩
    rw [← pack_sign_mag x, hsign, hzero]
    rfl

/-- Settles O54: a code's word is in its range, and a word in range is the one of its sign and magnitude. -/
theorem codesAreTheAdmittedNumbers : Obligations.CodesAreTheAdmittedNumbers := by
  unfold Obligations.CodesAreTheAdmittedNumbers
  exact ⟨fun _ => ⟨exists_presetWord, fun ⟨m, hm⟩ => hm ▸ presetWord_inOpenPi m⟩,
    fun _ => ⟨exists_unitWord, fun ⟨m, hm⟩ => hm ▸ unitWord_inUnit m⟩,
    fun _ => ⟨exists_phaseWord, fun ⟨m, hm⟩ => hm ▸ phaseWord_isPhase m⟩⟩

end Sys2Proof.Machine
end

section
/-! SUPPORT. Exact operations (spec/00_scope.md R9): where the exact result is a binary32 the operation gives it. -/

namespace Sys2Proof.Machine

/-- Words of one nonzero number are equal: only zero has two. -/
theorem eq_of_fkey_eq {x y : F32} (h : fkey x = fkey y) (h0 : fkey y ≠ 0) : x = y := by
  have hmag : fmag x = fmag y := by rw [← natAbs_fkey x, h, natAbs_fkey]
  refine pack_inj ?_ hmag
  cases hx : fsign x <;> cases hy : fsign y <;> simp [fkey, hx, hy, hmag] at h h0 ⊢ <;> omega

theorem fkey_eq_of_value_eq {x y : F32} (hx : isFinite x = true) (hy : isFinite y = true)
    (h : value x = value y) : fkey x = fkey y :=
  le_antisymm ((value_le_value_iff hx hy).mp h.le) ((value_le_value_iff hy hx).mp h.ge)

theorem value_eq_zero_iff (x : F32) : value x = 0 ↔ fkey x = 0 := by
  rw [← Int.natAbs_eq_zero, natAbs_fkey, ← units_eq_zero_iff, ← natAbs_sunits, Int.natAbs_eq_zero,
    value, div_eq_zero_iff]
  simp

theorem eq_of_value_eq {x y : F32} (hx : isFinite x = true) (hy : isFinite y = true)
    (h : value x = value y) (h0 : value y ≠ 0) : x = y :=
  eq_of_fkey_eq (fkey_eq_of_value_eq hx hy h) (mt (value_eq_zero_iff y).mpr h0)

section
variable {x y z : F32} (hx : isFinite x = true) (hy : isFinite y = true) (hz : isFinite z = true)
include hx hy hz

theorem fadd_exact (h : value x + value y = value z) :
    isFinite (fadd x y) = true ∧ value (fadd x y) = value z := by
  have hnear := (fadd_roundsTo hx hy).isNearest (h ▸ abs_value_lt_overflowBound hz)
  exact ⟨hnear.finite, (hnear.value_eq hz h).trans h⟩

theorem fsub_exact (h : value x - value y = value z) :
    isFinite (fsub x y) = true ∧ value (fsub x y) = value z := by
  have hnear := (fsub_roundsTo hx hy).isNearest (h ▸ abs_value_lt_overflowBound hz)
  exact ⟨hnear.finite, (hnear.value_eq hz h).trans h⟩

theorem fmul_exact (h : value x * value y = value z) :
    isFinite (fmul x y) = true ∧ value (fmul x y) = value z := by
  have hnear := (fmul_roundsTo hx hy).isNearest (h ▸ abs_value_lt_overflowBound hz)
  exact ⟨hnear.finite, (hnear.value_eq hz h).trans h⟩

end

end Sys2Proof.Machine
end

section
/-! SUPPORT. The statements of spec/42_oscillator.md: the excitation sample (R62) and the phase accumulator (R66). -/

namespace Sys2Proof.Machine

/-! ### The excitation sample (R62) -/

theorem within_of_inUnit {x : F32} (h : inUnit x = true) : Within F_NEG_ONE F_ONE x := by
  obtain ⟨hge, hle⟩ := Bool.and_eq_true_iff.mp h
  exact within_of_fle (by decide) (by decide) hge hle

theorem Within.inUnit {x : F32} (h : Within F_NEG_ONE F_ONE x) : inUnit x = true :=
  Bool.and_eq_true_iff.mpr ⟨h.fle_low (by decide), h.fle_high (by decide)⟩

@[simp] theorem value_SAW_MIX : value SAW_MIX = 15938355 / 2 ^ 24 := by
  have h : sunits SAW_MIX = 15938355 * 2 ^ 125 := by decide
  norm_num [value, h]

@[simp] theorem value_NOISE_MIX : value NOISE_MIX = 13421773 / 2 ^ 28 := by
  have h : sunits NOISE_MIX = 13421773 * 2 ^ 121 := by decide
  norm_num [value, h]

/-- A sample in [-1, 1] times a mix is at most the mix in size. -/
theorem mixed_within {mix x : F32} (hmix : isFinite mix = true) (hpos : 0 ≤ value mix)
    (hx : Within F_NEG_ONE F_ONE x) : Within (fneg mix) mix (fmul mix x) := by
  obtain ⟨hfin, hlow, hhigh⟩ := hx
  rw [value_F_NEG_ONE] at hlow
  rw [value_F_ONE] at hhigh
  exact fmul_within (by simpa) hmix hmix hfin (by rw [value_fneg]; nlinarith) (by nlinarith)

theorem oscNext_within {c : Config} {p n : F32} {note : BitVec 8}
    (hsaw : inUnit (c.blsaw p note) = true) (hn : inUnit n = true) :
    Within F_NEG_ONE F_ONE (oscNext c p note n) := by
  obtain ⟨hs, hslow, hshigh⟩ := mixed_within (mix := SAW_MIX) (by decide) (by norm_num)
    (within_of_inUnit hsaw)
  obtain ⟨hm, hmlow, hmhigh⟩ := mixed_within (mix := NOISE_MIX) (by decide) (by norm_num)
    (within_of_inUnit hn)
  simp only [value_fneg, value_SAW_MIX, value_NOISE_MIX] at hslow hshigh hmlow hmhigh
  apply fadd_within (by decide) (by decide) hs hm <;> simp <;> linarith

/-- Settles O45: SAW_MIX + NOISE_MIX is below 1, and rounding keeps the bound. -/
theorem excitationStaysInUnit : Obligations.ExcitationStaysInUnit := by
  unfold Obligations.ExcitationStaysInUnit
  exact fun p note n hp => (oscNext_within (Config.chip_admitted.blsaw p note hp)
    (Config.chip_admitted.noise n)).inUnit

/-! ### The phase accumulator (R66) -/

theorem isPhase_iff (x : F32) :
    isPhase x = true ↔ isFinite x = true ∧ 0 ≤ value x ∧ value x < 1 := by
  rw [isPhase, Bool.and_eq_true, ← value_F_ZERO, ← value_F_ONE]
  constructor
  · rintro ⟨hge, hlt⟩
    have hw : Within F_ZERO F_ONE x := within_of_fle (by decide) (by decide) hge (fle_of_flt hlt)
    exact ⟨hw.finite, hw.low, (flt_iff_value_lt hw.finite (by decide)).mp hlt⟩
  · rintro ⟨hx, hge, hlt⟩
    exact ⟨(fle_iff_value_le (by decide) hx).mpr hge, (flt_iff_value_lt hx (by decide)).mpr hlt⟩

/-- The largest binary32 below 1. -/
def BELOW_ONE : F32 := 0x3F7FFFFF#32

/-- The largest binary32 below 2. -/
def BELOW_TWO : F32 := 0x3FFFFFFF#32

@[simp] theorem value_BELOW_ONE : value BELOW_ONE = 1 - 1 / 2 ^ 24 := by
  have h : sunits BELOW_ONE = (2 ^ 24 - 1) * 2 ^ 125 := by decide
  norm_num [value, h]

@[simp] theorem value_BELOW_TWO : value BELOW_TWO = 2 - 1 / 2 ^ 23 := by
  have h : sunits BELOW_TWO = (2 ^ 24 - 1) * 2 ^ 126 := by decide
  norm_num [value, h]

theorem value_le_below_one {x : F32} (hx : isFinite x = true) (h : value x < 1) :
    value x ≤ value BELOW_ONE := by
  have hkey : fkey BELOW_ONE + 1 = fkey F_ONE := by decide
  rw [← value_F_ONE, ← not_le, value_le_value_iff (by decide) hx] at h
  rw [value_le_value_iff hx (by decide)]
  omega

/-- Two phases add up to less than 2, rounded too. -/
theorem phase_sum_within {p inc : F32} (hp : isPhase p = true) (hinc : isPhase inc = true) :
    Within F_ZERO BELOW_TWO (fadd p inc) := by
  obtain ⟨hpfin, hplow, hphigh⟩ := (isPhase_iff p).mp hp
  obtain ⟨hifin, hilow, hihigh⟩ := (isPhase_iff inc).mp hinc
  have hp1 := value_le_below_one hpfin hphigh
  have hi1 := value_le_below_one hifin hihigh
  rw [value_BELOW_ONE] at hp1 hi1
  apply fadd_within (by decide) (by decide) hpfin hifin <;> simp <;> linarith

/-- A number in [1, 2) is 1 and a multiple of 2 ^ -23 below 1, which is a binary32. -/
theorem exists_value_eq_sub_one {x : F32} (hx : isFinite x = true) (hlow : 1 ≤ value x)
    (hhigh : value x < 2) : ∃ y, isFinite y = true ∧ value y = value x - 1 := by
  have hends : fkey F_ONE = 127 * 2 ^ 23 ∧ fkey F_TWO = 128 * 2 ^ 23 := by decide
  rw [← value_F_ONE, value_le_value_iff (by decide) hx] at hlow
  rw [← value_F_TWO, ← not_le, value_le_value_iff (by decide) hx] at hhigh
  have hsign : fsign x = false := by
    by_contra hs
    have hkey := fkey_of_neg (Bool.not_eq_false _ ▸ hs)
    omega
  have hkey := fkey_of_pos hsign
  have hexp : fmag x / 2 ^ 23 - 1 = 126 := by omega
  obtain ⟨y, hy, hval⟩ := exists_value_eq_div_two_pow (n := (fmag x % 2 ^ 23 : ℕ)) (m := 23)
    (by omega) (by decide)
  refine ⟨y, hy, ?_⟩
  rw [hval, value_eq_signFactor_mul, hsign, units_of_normal (by omega), hexp, signFactor,
    if_neg Bool.false_ne_true]
  generalize fmag x % 2 ^ 23 = k
  push_cast
  field_simp
  ring

theorem truncInt_eq_floor {q : F32} (hq : isFinite q = true) (hlow : 0 ≤ value q) :
    truncInt q = ⌊value q⌋ := by
  rw [truncInt_eq_ratTrunc hq, ratTrunc, if_pos hlow]

/-- R66's integer part and remainder of a number in [0, 2). -/
theorem trunc_and_rest {q : F32} (hq : isFinite q = true) (hlow : 0 ≤ value q)
    (hhigh : value q < 2) :
    (truncInt q = 0 ∨ truncInt q = 1) ∧ isFinite (fsub q (f32OfInt (truncInt q))) = true ∧
      value (fsub q (f32OfInt (truncInt q))) = value q - truncInt q := by
  have htrunc := truncInt_eq_floor hq hlow
  rcases lt_or_ge (value q) 1 with hlt | hge
  · have hzero : truncInt q = 0 := htrunc.trans (Int.floor_eq_zero_iff.mpr ⟨hlow, hlt⟩)
    rw [hzero, Int.cast_zero, sub_zero]
    exact ⟨.inl rfl, fsub_exact hq (by decide) hq (by simp [f32OfInt_exact])⟩
  · have hone : truncInt q = 1 :=
      htrunc.trans (Int.floor_eq_iff.mpr ⟨by simpa using hge, by norm_num; linarith⟩)
    obtain ⟨y, hy, hval⟩ := exists_value_eq_sub_one hq hge hhigh
    obtain ⟨hfin, hval1⟩ := f32OfInt_exact (n := 1) (by decide)
    rw [hone, Int.cast_one, ← hval]
    exact ⟨.inr rfl, fsub_exact hq hfin hy (by rw [hval1, hval, Int.cast_one])⟩

section
variable {p inc : F32} (hp : isPhase p = true) (hinc : isPhase inc = true)
include hp hinc

theorem truncInt_phase_sum :
    truncInt (fadd p inc) = 0 ∨ truncInt (fadd p inc) = 1 := by
  obtain ⟨hfin, hlow, hhigh⟩ := phase_sum_within hp hinc
  rw [value_F_ZERO] at hlow
  rw [value_BELOW_TWO] at hhigh
  exact (trunc_and_rest hfin hlow (by linarith)).1

theorem nextPhase_exact : isFinite (nextPhase p inc) = true ∧
    value (nextPhase p inc) = value (fadd p inc) - truncInt (fadd p inc) := by
  obtain ⟨hfin, hlow, hhigh⟩ := phase_sum_within hp hinc
  rw [value_F_ZERO] at hlow
  rw [value_BELOW_TWO] at hhigh
  exact (trunc_and_rest hfin hlow (by linarith)).2

theorem value_nextPhase : value (nextPhase p inc) = Int.fract (value (fadd p inc)) := by
  obtain ⟨hfin, hlow, -⟩ := phase_sum_within hp hinc
  rw [value_F_ZERO] at hlow
  rw [(nextPhase_exact hp hinc).2, truncInt_eq_floor hfin hlow, Int.fract]

/-- PHASE stays in [0, 1) (R28 (d), R66). -/
theorem isPhase_nextPhase : isPhase (nextPhase p inc) = true := by
  rw [isPhase_iff, value_nextPhase hp hinc]
  exact ⟨(nextPhase_exact hp hinc).1, Int.fract_nonneg _, Int.fract_lt_one _⟩

theorem value_nextPhase_of_value_inc_eq_zero (h0 : value inc = 0) :
    value (nextPhase p inc) = value p := by
  obtain ⟨hpfin, hplow, hphigh⟩ := (isPhase_iff p).mp hp
  obtain ⟨hifin, -, -⟩ := (isPhase_iff inc).mp hinc
  have hsum := (fadd_exact hpfin hifin hpfin (by rw [h0, add_zero])).2
  rw [value_nextPhase hp hinc, hsum, Int.fract_eq_self.mpr ⟨hplow, hphigh⟩]

end

/-- Settles O44: the rounded sum of two phases is in [0, 2), where the integer part is 0 or 1 and the rest is a binary32. -/
theorem phaseStaysInCycle : Obligations.PhaseStaysInCycle := by
  unfold Obligations.PhaseStaysInCycle
  exact fun p inc hp hinc => ⟨truncInt_phase_sum hp hinc, (nextPhase_exact hp hinc).2,
    isPhase_nextPhase hp hinc, value_nextPhase_of_value_inc_eq_zero hp hinc⟩

end Sys2Proof.Machine
end

section
/-! SUPPORT. The statements of spec/44_pipeline.md on the gain and on CLIP (R77, R78): a gain of 1 is the identity; CLIP's cubic is odd and rises to exactly 1. -/

namespace Sys2Proof.Machine

/-! ### The gain (R77) -/

/-- A product with 1 is the number itself, zeros and infinities with their sign. -/
theorem fmul_one {x : F32} (h : isNaN x = false) : fmul x F_ONE = x := by
  have hone : isNaN F_ONE = false ∧ isInf F_ONE = false ∧ fsign F_ONE = false ∧ fmag F_ONE ≠ 0 := by
    decide
  obtain ⟨hnan, hinf, hsign, hmag⟩ := hone
  cases hx : isInf x with
  | true =>
    have hxmag : fmag x = 0x7F800000 := of_decide_eq_true hx
    simp only [fmul, whenKnown_eq, h, hx, hnan, hmag, hsign, hxmag]
    exact pack_inj (by simp) (by simp [hxmag])
  | false =>
    have hfin : isFinite x = true := by
      have h1 : ¬ 0x7F800000 < fmag x := of_decide_eq_false h
      have h2 : ¬ fmag x = 0x7F800000 := of_decide_eq_false hx
      exact decide_eq_true (by omega)
    obtain ⟨hprod, hval⟩ := fmul_exact hfin (by decide : isFinite F_ONE = true) hfin (by simp)
    have hkey := fkey_eq_of_value_eq hprod hfin hval
    refine pack_inj ?_ (by rw [← natAbs_fkey, hkey, natAbs_fkey])
    rw [fmul_of_finite hfin (by decide), fsign_roundSigned, hsign, Bool.bne_false]

/-- Settles O49: Q is at least SQRT2, so the gain adds a number of at least 0 to 1. -/
theorem gainNeverAttenuates : Obligations.GainNeverAttenuates := by
  unfold Obligations.GainNeverAttenuates
  exact ⟨fun v => (gainOf_within (resonanceQ_within v)).fle_low (by decide), fun _ => fmul_one,
    by decide⟩

/-! ### NaNs -/

theorem isNaN_fmul_left {x : F32} (h : isNaN x = true) (y : F32) : isNaN (fmul x y) = true := by
  simp [fmul, h, nanResult_isNaN]

theorem isNaN_fsub_left {x : F32} (h : isNaN x = true) (y : F32) : isNaN (fsub x y) = true := by
  simp [fsub_eq, sumAs, h, nanResult_isNaN]

theorem clamp1_of_isNaN {x : F32} (h : isNaN x = true) : clamp1 x = x := by
  simp [clamp1, flt, h]

/-! ### The cubic of CLIP on a clamped number (R78) -/

/-- What R78's cubic takes off u: C_CLIP × u³. -/
def scaledCube (u : F32) : F32 := fmul C_CLIP (fmul (fmul u u) u)

/-- The number that R78's cubic rescales: u - C_CLIP × u³. -/
def clipSum (u : F32) : F32 := fsub u (scaledCube u)

theorem clip_eq (x : F32) : clip x = fmul (clipSum (clamp1 x)) K_RESCALE := rfl

theorem clamp1_of_fle {x : F32} (hlow : fle F_NEG_ONE x = true) (hhigh : fle x F_ONE = true) :
    clamp1 x = x := by
  obtain ⟨-, -, hl⟩ := (fle_iff _ _).mp hlow
  obtain ⟨-, -, hh⟩ := (fle_iff _ _).mp hhigh
  have h1 : flt F_ONE x = false := by
    rw [← Bool.not_eq_true, flt_iff]
    omega
  have h2 : flt x F_NEG_ONE = false := by
    rw [← Bool.not_eq_true, flt_iff]
    omega
  simp [clamp1, h1, h2]

theorem clamp1_of_one_fle {x : F32} (h : fle F_ONE x = true) : clamp1 x = F_ONE := by
  obtain ⟨hnan1, hnan, hle⟩ := (fle_iff _ _).mp h
  rcases hle.lt_or_eq with hlt | heq
  · rw [clamp1, if_pos ((flt_iff _ _).mpr ⟨hnan1, hnan, hlt⟩)]
  · rw [← eq_of_fkey_eq heq (by rw [← heq]; decide)]
    decide

theorem clamp1_of_fle_neg_one {x : F32} (h : fle x F_NEG_ONE = true) : clamp1 x = F_NEG_ONE := by
  obtain ⟨hnan, hnan1, hle⟩ := (fle_iff _ _).mp h
  rcases hle.lt_or_eq with hlt | heq
  · have hends : fkey F_NEG_ONE < fkey F_ONE := by decide
    have h1 : flt F_ONE x = false := by
      rw [← Bool.not_eq_true, flt_iff]
      omega
    rw [clamp1, h1, if_neg Bool.false_ne_true, if_pos ((flt_iff _ _).mpr ⟨hnan, hnan1, hlt⟩)]
  · rw [eq_of_fkey_eq heq (by decide)]
    decide

theorem fle_total {x y : F32} (hx : isNaN x = false) (hy : isNaN y = false) :
    fle x y = true ∨ fle y x = true := by
  simpa [fle_iff, hx, hy] using le_total (fkey x) (fkey y)

/-- A number is clamped to 1 or to -1, or it is in [-1, 1] and stays (R10). -/
theorem clamp1_cases {x : F32} (h : isNaN x = false) :
    (fle F_ONE x = true ∧ clamp1 x = F_ONE) ∨ (fle x F_NEG_ONE = true ∧ clamp1 x = F_NEG_ONE) ∨
      ((fle F_NEG_ONE x = true ∧ fle x F_ONE = true) ∧ clamp1 x = x) := by
  rcases fle_total (x := F_ONE) (by decide) h with hge | hlt
  · exact .inl ⟨hge, clamp1_of_one_fle hge⟩
  · rcases fle_total (y := F_NEG_ONE) h (by decide) with hle | hgt
    · exact .inr (.inl ⟨hle, clamp1_of_fle_neg_one hle⟩)
    · exact .inr (.inr ⟨⟨hgt, hlt⟩, clamp1_of_fle hgt hlt⟩)

theorem clamp1_within {x : F32} (h : isNaN x = false) : Within F_NEG_ONE F_ONE (clamp1 x) := by
  rcases clamp1_cases h with ⟨-, hx⟩ | ⟨-, hx⟩ | ⟨⟨hlow, hhigh⟩, hx⟩ <;> rw [hx]
  · exact ⟨by decide, by norm_num, le_rfl⟩
  · exact ⟨by decide, le_rfl, by norm_num⟩
  · exact within_of_fle (by decide) (by decide) hlow hhigh

/-! ### Oddness -/

@[simp] theorem fle_fneg (x y : F32) : fle (fneg x) (fneg y) = fle y x := by
  rw [Bool.eq_iff_iff, fle_iff, fle_iff, isNaN_fneg, isNaN_fneg, fkey_fneg, fkey_fneg,
    neg_le_neg_iff]
  tauto

theorem clamp1_fneg {x : F32} (h : isNaN x = false) : clamp1 (fneg x) = fneg (clamp1 x) := by
  have hone : fneg F_ONE = F_NEG_ONE := by decide
  have hneg : fneg F_NEG_ONE = F_ONE := by decide
  rcases clamp1_cases h with ⟨hge, hx⟩ | ⟨hle, hx⟩ | ⟨⟨hlow, hhigh⟩, hx⟩ <;> rw [hx]
  · rw [hone, clamp1_of_fle_neg_one]
    rwa [← hone, fle_fneg]
  · rw [hneg, clamp1_of_one_fle]
    rwa [← hneg, fle_fneg]
  · exact clamp1_of_fle (by rwa [← hone, fle_fneg]) (by rwa [← hneg, fle_fneg])

theorem fkey_roundSigned (s : Bool) (n d : Nat) :
    fkey (roundSigned s n d) = if s then -(roundMag n d : ℤ) else roundMag n d := by
  rw [fkey, fsign_roundSigned, fmag_roundSigned]

theorem roundMag_zero (d : Nat) : roundMag 0 d = 0 := by
  simp [roundMag]

/-- Rounding the negated number gives the negated number, zero being its own. -/
theorem fkey_roundSigned_neg {s t : Bool} {n d : Nat} (h : n ≠ 0 → t = !s) :
    fkey (roundSigned t n d) = -fkey (roundSigned s n d) := by
  rcases Nat.eq_zero_or_pos n with rfl | hpos
  · simp [fkey_roundSigned, roundMag_zero]
  · rw [h hpos.ne']
    cases s <;> simp [fkey_roundSigned]

section
variable {x y : F32} (hx : isFinite x = true) (hy : isFinite y = true)
include hx hy

theorem fmul_fneg_right : fmul x (fneg y) = fneg (fmul x y) := by
  rw [fmul_of_finite hx (by simpa), fmul_of_finite hx hy]
  exact pack_inj (by simp) (by simp)

theorem fmul_fneg_left : fmul (fneg x) y = fneg (fmul x y) := by
  rw [fmul_of_finite (by simpa) hy, fmul_of_finite hx hy]
  exact pack_inj (by simp) (by simp)

theorem fkey_fsub_fneg_fneg : fkey (fsub (fneg x) (fneg y)) = -fkey (fsub x y) := by
  have hx' : isFinite (fneg x) = true := by simpa
  have hy' : isFinite (fneg y) = true := by simpa
  obtain ⟨s, hsum, hval⟩ := sumAs_eq_roundSigned hx hy' .sub x y
  obtain ⟨t, hsum', hval'⟩ := sumAs_eq_roundSigned hx' hy .sub (fneg x) (fneg y)
  have hopp : sunits (fneg x) + sunits y = -(sunits x + sunits (fneg y)) := by
    rw [sunits_fneg, sunits_fneg]
    ring
  rw [hopp, Int.natAbs_neg] at hsum' hval'
  rw [fsub_eq, fsub_eq, fneg_fneg, hsum, hsum']
  refine fkey_roundSigned_neg fun hne => ?_
  have hpos : (0 : ℚ) < (sunits x + sunits (fneg y)).natAbs := by positivity
  rw [Int.cast_neg, hval, ← neg_mul, mul_left_inj' hpos.ne'] at hval'
  cases s <;> cases t <;> simp [signFactor] at hval' ⊢ <;> linarith

/-- A product changes sign with its first factor. -/
theorem fkey_fmul_neg {x' : F32} (hx' : isFinite x' = true) (h : fkey x' = -fkey x) :
    fkey (fmul x' y) = -fkey (fmul x y) := by
  have hmag : fmag x' = fmag x := by rw [← natAbs_fkey, h, Int.natAbs_neg, natAbs_fkey]
  have hunits : units x' = units x :=
    le_antisymm (units_le_units hmag.le) (units_le_units hmag.ge)
  rw [fmul_of_finite hx' hy, fmul_of_finite hx hy, hunits]
  refine fkey_roundSigned_neg fun hne => ?_
  have hne' : fmag x ≠ 0 := fun h0 => hne (by rw [(units_eq_zero_iff x).mpr h0, Nat.zero_mul])
  have hsign : fsign x' = !fsign x := by
    cases hs : fsign x <;> cases hs' : fsign x' <;> simp [fkey, hs, hs', hmag] at h ⊢ <;> omega
  rw [hsign, Bool.not_bne]

end

/-! ### The bound of the cubic (R78) -/

@[simp] theorem value_C_CLIP : value C_CLIP = 5033165 / 2 ^ 24 := by
  have h : sunits C_CLIP = 5033165 * 2 ^ 125 := by decide
  norm_num [value, h]

@[simp] theorem value_K_RESCALE : value K_RESCALE = 5991863 / 2 ^ 22 := by
  have h : sunits K_RESCALE = 5991863 * 2 ^ 127 := by decide
  norm_num [value, h]

/-- 1 - C_CLIP, the cubic's sum at 1. -/
def CLIP_SUM_MAX : F32 := 0x3F333333#32

@[simp] theorem value_CLIP_SUM_MAX : value CLIP_SUM_MAX = 11744051 / 2 ^ 24 := by
  have h : sunits CLIP_SUM_MAX = 11744051 * 2 ^ 125 := by decide
  norm_num [value, h]

theorem square_within {u : F32} (hu : Within F_NEG_ONE F_ONE u) :
    Within F_ZERO F_ONE (fmul u u) := by
  obtain ⟨hfin, hlow, hhigh⟩ := hu
  rw [value_F_NEG_ONE] at hlow
  rw [value_F_ONE] at hhigh
  apply fmul_within (by decide) (by decide) hfin hfin <;> simp <;> nlinarith

theorem cube_within {u : F32} (hu : Within F_NEG_ONE F_ONE u) :
    Within F_NEG_ONE F_ONE (fmul (fmul u u) u) := by
  obtain ⟨hsfin, hslow, hshigh⟩ := square_within hu
  obtain ⟨hfin, hlow, hhigh⟩ := hu
  rw [value_F_NEG_ONE] at hlow
  rw [value_F_ONE] at hhigh hshigh
  rw [value_F_ZERO] at hslow
  apply fmul_within (by decide) (by decide) hsfin hfin <;> simp <;> nlinarith

theorem scaledCube_within {u : F32} (hu : Within F_NEG_ONE F_ONE u) :
    Within F_NEG_ONE F_ONE (scaledCube u) :=
  (mixed_within (mix := C_CLIP) (by decide) (by norm_num) (cube_within hu)).mono (by norm_num)
    (by norm_num)

theorem clipSum_within {u : F32} (hu : Within F_NEG_ONE F_ONE u) :
    Within F_NEG_TWO F_TWO (clipSum u) := by
  obtain ⟨hxfin, hxlow, hxhigh⟩ := scaledCube_within hu
  obtain ⟨hfin, hlow, hhigh⟩ := hu
  rw [value_F_NEG_ONE] at hlow hxlow
  rw [value_F_ONE] at hhigh hxhigh
  apply fsub_within (by decide) (by decide) hfin hxfin <;> simp <;> linarith

theorem clipSum_fneg {u : F32} (hu : Within F_NEG_ONE F_ONE u) :
    fkey (clipSum (fneg u)) = -fkey (clipSum u) := by
  have hfin := hu.finite
  have hfin' : isFinite (fneg u) = true := by simpa
  have hcube : scaledCube (fneg u) = fneg (scaledCube u) := by
    rw [scaledCube, fmul_fneg_right hfin' hfin, fmul_fneg_left hfin hfin, fneg_fneg,
      fmul_fneg_right (square_within hu).finite hfin,
      fmul_fneg_right (by decide) (cube_within hu).finite, scaledCube]
  rw [clipSum, hcube, fkey_fsub_fneg_fneg hfin (scaledCube_within hu).finite, clipSum]

theorem fkey_clip_fneg {x : F32} (h : isNaN x = false) : fkey (clip (fneg x)) = -fkey (clip x) := by
  have hu := clamp1_within h
  have hu' : Within F_NEG_ONE F_ONE (fneg (clamp1 x)) :=
    clamp1_fneg h ▸ clamp1_within (by rwa [isNaN_fneg])
  rw [clip_eq, clip_eq, clamp1_fneg h]
  exact fkey_fmul_neg (clipSum_within hu).finite (by decide) (clipSum_within hu').finite
    (clipSum_fneg hu)

/-- Below 1 the rounding of square, cube and product adds less than half a step to the cubic's value at 1. -/
theorem sub_scaledCube_lt {u : F32} (hu : Within F_ZERO BELOW_ONE u) :
    value u - value (scaledCube u) < value CLIP_SUM_MAX + 1 / 2 ^ 25 := by
  have hunit : Within F_NEG_ONE F_ONE u := hu.mono (by norm_num) (by norm_num)
  obtain ⟨hsfin, hslow, hshigh⟩ := square_within hunit
  obtain ⟨hcfin, hclow, hchigh⟩ := cube_within hunit
  obtain ⟨hfin, hlow, hhigh⟩ := hu
  rw [value_F_ZERO] at hlow hslow
  rw [value_BELOW_ONE] at hhigh
  rw [value_F_NEG_ONE] at hclow
  rw [value_F_ONE] at hshigh hchigh
  have hsquare := (fmul_roundsTo hfin hfin).abs_sub_le (m := 24) (by decide) (by
    rw [abs_of_nonneg (by positivity)]
    nlinarith)
  have hcube := (fmul_roundsTo hsfin hfin).abs_sub_le (m := 24) (by decide) (by
    rw [abs_of_nonneg (by positivity)]
    nlinarith)
  have hscaled := (fmul_roundsTo (x := C_CLIP) (by decide) hcfin).abs_sub_le (m := 25)
    (by decide) (by
    rw [value_C_CLIP, abs_mul, abs_of_pos (by norm_num)]
    linarith [abs_le.mpr ⟨hclow, hchigh⟩])
  rw [value_C_CLIP, ← scaledCube] at hscaled
  have hsquare' : value u * value u - 1 / 2 ^ 25 ≤ value (fmul u u) := by
    linarith [(abs_le.mp hsquare).2]
  have hsquare_mul := mul_le_mul_of_nonneg_right hsquare' hlow
  have hcubic : 3 * value u - 2 ≤ value u * value u * value u := by
    linarith [mul_nonneg (sq_nonneg (1 - value u)) (show 0 ≤ value u + 2 by linarith)]
  rw [value_CLIP_SUM_MAX]
  linarith [(abs_le.mp hcube).2, (abs_le.mp hscaled).2]

/-- The binary32 above `CLIP_SUM_MAX`. -/
def ABOVE_CLIP_SUM_MAX : F32 := 0x3F333334#32

theorem value_ABOVE_CLIP_SUM_MAX : value ABOVE_CLIP_SUM_MAX = 11744052 / 2 ^ 24 := by
  have h : sunits ABOVE_CLIP_SUM_MAX = 11744052 * 2 ^ 125 := by decide
  norm_num [value, h]

/-- The binary32 above 1. -/
def ABOVE_ONE : F32 := 0x3F800001#32

theorem value_ABOVE_ONE : value ABOVE_ONE = 1 + 1 / 2 ^ 23 := by
  have h : sunits ABOVE_ONE = (2 ^ 23 + 1) * 2 ^ 126 := by decide
  norm_num [value, h]

/-- Of a nonnegative number no more is taken off than itself. -/
theorem scaledCube_within_self {u : F32} (hu : Within F_ZERO F_ONE u) :
    Within F_ZERO u (scaledCube u) := by
  obtain ⟨hsfin, hslow, hshigh⟩ := square_within (hu.mono (by norm_num) le_rfl)
  obtain ⟨hfin, hlow, hhigh⟩ := hu
  rw [value_F_ZERO] at hlow hslow
  rw [value_F_ONE] at hhigh hshigh
  obtain ⟨hcfin, hclow, hchigh⟩ : Within F_ZERO u (fmul (fmul u u) u) :=
    fmul_within (by decide) hfin hsfin hfin (by rw [value_F_ZERO]; positivity) (by nlinarith)
  rw [value_F_ZERO] at hclow
  refine fmul_within (by decide) hfin (by decide) hcfin ?_ ?_ <;> rw [value_C_CLIP]
  · rw [value_F_ZERO]
    positivity
  · linarith

theorem clipSum_within_max {u : F32} (hu : Within F_ZERO F_ONE u) :
    Within F_ZERO CLIP_SUM_MAX (clipSum u) := by
  obtain ⟨hxfin, hxlow, hxhigh⟩ := scaledCube_within_self hu
  obtain ⟨hfin, hlow, hhigh⟩ := hu
  rw [value_F_ZERO] at hxlow
  rw [value_F_ONE] at hhigh
  rcases hhigh.lt_or_eq with hlt | hone
  · have hlt' := sub_scaledCube_lt ⟨hfin, hlow, value_le_below_one hfin hlt⟩
    rw [value_CLIP_SUM_MAX] at hlt'
    have hsum : Within F_ZERO F_ONE (clipSum u) := by
      apply fsub_within (by decide) (by decide) hfin hxfin <;> simp <;> linarith
    refine ⟨hsum.finite, hsum.low, (fsub_roundsTo hfin hxfin).value_le (hi := ABOVE_CLIP_SUM_MAX)
      (by decide) (by decide) (by decide) (by linarith) ?_⟩
    rw [value_ABOVE_CLIP_SUM_MAX, value_CLIP_SUM_MAX]
    linarith
  · obtain rfl : u = F_ONE := eq_of_value_eq hfin (by decide) (by simpa using hone) (by simp)
    have hmax : clipSum F_ONE = CLIP_SUM_MAX := by decide
    rw [hmax]
    exact ⟨by decide, by norm_num, le_rfl⟩

/-- The sum of 1 times K_RESCALE exceeds 1 by less than half a step, so it rounds to 1. -/
theorem rescaled_within {s : F32} (hs : Within F_ZERO CLIP_SUM_MAX s) :
    Within F_ZERO F_ONE (fmul s K_RESCALE) := by
  obtain ⟨hfin, hlow, hhigh⟩ := hs
  rw [value_F_ZERO] at hlow
  rw [value_CLIP_SUM_MAX] at hhigh
  have hprod : Within F_ZERO F_TWO (fmul s K_RESCALE) := by
    apply fmul_within (by decide) (by decide) hfin (by decide) <;> simp <;> linarith
  refine ⟨hprod.finite, hprod.low, (fmul_roundsTo hfin (by decide)).value_le (hi := ABOVE_ONE)
    (by decide) (by decide) (by decide) ?_ ?_⟩
  · rw [value_K_RESCALE]
    positivity
  · rw [value_ABOVE_ONE, value_F_ONE, value_K_RESCALE]
    linarith

theorem clip_within_of_nonneg {x : F32} (h : isNaN x = false) (h0 : 0 ≤ value (clamp1 x)) :
    Within F_ZERO F_ONE (clip x) := by
  obtain ⟨hfin, -, hhigh⟩ := clamp1_within h
  exact rescaled_within (clipSum_within_max ⟨hfin, by simpa using h0, hhigh⟩)

/-- Settles O46: a nonnegative clamped number is mapped to [0, 1], and CLIP is odd. -/
theorem clipStaysInUnit : Obligations.ClipStaysInUnit := by
  unfold Obligations.ClipStaysInUnit
  intro x h
  rcases le_total 0 (value (clamp1 x)) with hpos | hneg
  · exact ((clip_within_of_nonneg h hpos).mono (by norm_num) le_rfl).inUnit
  · have hneg' : 0 ≤ value (clamp1 (fneg x)) := by
      rw [clamp1_fneg h, value_fneg]
      linarith
    have hwithin := clip_within_of_nonneg (by rwa [isNaN_fneg]) hneg'
    have hunit := (hwithin.mono (by norm_num) le_rfl).inUnit
    rwa [inUnit_iff, ← natAbs_fkey, fkey_clip_fneg h, Int.natAbs_neg, natAbs_fkey,
      ← inUnit_iff] at hunit

/-- Settles O47: the clamped number is x itself, 1 or -1, the corners are computed, the sign goes through each operation, and a NaN operand gives a NaN. -/
theorem clipCubicAndCorners : Obligations.ClipCubicAndCorners := by
  unfold Obligations.ClipCubicAndCorners
  refine ⟨fun x hlow hhigh => ?_, fun x h => ?_, fun x h => ?_, by decide, by decide,
    fun x => fkey_clip_fneg, fun x h => ?_⟩
  · rw [clip_eq, clamp1_of_fle hlow hhigh]
    rfl
  · rw [clip_eq, clamp1_of_one_fle h]
    decide
  · rw [clip_eq, clamp1_of_fle_neg_one h]
    decide
  · have hclip : isNaN (clip x) = true := by
      rw [clip_eq, clamp1_of_isNaN h]
      exact isNaN_fmul_left (isNaN_fsub_left h _) _
    exact ⟨hclip, by rw [toQ31, q31Int_of_isNaN hclip]; rfl⟩

end Sys2Proof.Machine
end

section
/-! SUPPORT. The invariant of spec/10_state.md R28 (a) to (d) with the word range of R83: RETUNE, the frames of a RENDER and INIT keep it, so every step does. -/

namespace Sys2Proof.Machine

/-! ### The resonance stays in its range (R28 (b), R71) -/

/-- The binary32 above 16. -/
def ABOVE_Q_MAX : F32 := 0x41800001#32

theorem value_ABOVE_Q_MAX : value ABOVE_Q_MAX = 16 + 1 / 2 ^ 19 := by
  have h : sunits ABOVE_Q_MAX = (2 ^ 23 + 1) * 2 ^ 130 := by decide
  norm_num [value, h]

/-- SQRT2 + QSPAN exceeds 16 by less than half a step, so Q is at most 16 once rounded. -/
theorem resonanceQ_within_range (v : BitVec 16) : Within SQRT2 Q_MAX (resonanceQ v) := by
  obtain ⟨hqfin, hqlow, -⟩ := resonanceQ_within v
  obtain ⟨hp, hplow, hphigh⟩ := pval_within v
  rw [value_F_ZERO] at hplow
  rw [value_F_ONE] at hphigh
  obtain ⟨hm, hmlow, hmhigh⟩ : Within F_ZERO QSPAN (fmul (pval v) QSPAN) := by
    apply fmul_within (by decide) (by decide) hp (by decide) <;> simp <;> linarith
  rw [value_F_ZERO] at hmlow
  rw [value_QSPAN] at hmhigh
  refine ⟨hqfin, hqlow, (fadd_roundsTo (by decide) hm).value_le (hi := ABOVE_Q_MAX) (by decide)
    (by decide) (by decide) ?_ ?_⟩
  · rw [value_SQRT2]
    positivity
  · rw [value_ABOVE_Q_MAX, value_Q_MAX, value_SQRT2]
    linarith

/-! ### The operations keep the invariant -/

/-- RETUNE makes the coefficients fit F and Q whatever they were (R28 (a)). -/
theorem inv_retune {s : State} (hlow : fle SQRT2 s.q = true) (hhigh : fle s.q Q_MAX = true)
    (hgain : s.g = gainOf s.q) (hphase : isPhase s.phase = true)
    (hout : ∀ w ∈ s.out, w ≠ 0x80000000#32) : (retune Config.chip s).Inv where
  coefs0 := retune_coefs0 (s := s)
  coefs1 := retune_coefs1 (s := s)
  qLow := hlow
  qHigh := hhigh
  gain := hgain
  phase := hphase
  out := hout

theorem inv_reset : State.reset.Inv where
  coefs0 _ := rfl
  coefs1 _ := rfl
  qLow := by show fle SQRT2 SQRT2 = true; decide
  qHigh := by show fle SQRT2 Q_MAX = true; decide
  gain := by show F_ONE = gainOf SQRT2; decide
  phase := by show isPhase F_ZERO = true; decide
  out _ hw := absurd hw List.not_mem_nil

/-- The invariant is about the registers and OUT only. -/
theorem State.Inv.with_sequence {s : State} (h : s.Inv) (cs : List Command) (n v k : Nat) :
    State.Inv { s with cmds := cs, noiseCount := n, vowelCount := v, coefCount := k } := by
  obtain ⟨hcoefs0, hcoefs1, hlow, hhigh, hgain, hphase, hout⟩ := h
  exact ⟨hcoefs0, hcoefs1, hlow, hhigh, hgain, hphase, hout⟩

section
variable {s : State} (h : s.Inv)
include h

theorem State.Inv.frame (note bend : BitVec 8) :
    (frame Config.chip note (oscInc Config.chip note bend) s).Inv := by
  obtain ⟨hcoefs0, hcoefs1, hlow, hhigh, hgain, hphase, hout⟩ := h
  refine ⟨by simpa using hcoefs0, by simpa using hcoefs1, hlow, hhigh, hgain,
    isPhase_nextPhase hphase (Config.chip_admitted.pitchInc note bend), fun w hw => ?_⟩
  rw [frame_out, List.mem_append, List.mem_singleton] at hw
  rcases hw with hold | rfl
  · exact hout w hold
  · exact toQ31_ne_intMin _

theorem State.Inv.setFreqs (w0 w1 : F32) : (setFreqs Config.chip w0 w1 s).Inv := by
  obtain ⟨-, -, hlow, hhigh, hgain, hphase, hout⟩ := h
  exact inv_retune hlow hhigh hgain hphase hout

theorem State.Inv.resonanceState (v : BitVec 16) : (resonanceState Config.chip v s).Inv := by
  obtain ⟨-, -, -, -, -, hphase, hout⟩ := h
  have hq := resonanceQ_within_range v
  exact inv_retune (hq.fle_low (by decide)) (hq.fle_high (by decide)) rfl hphase hout

theorem State.Inv.noteOnState : (noteOnState Config.chip s).Inv := by
  rcases Bool.eq_false_or_eq_true s.randFlag with hflag | hflag
  · rw [noteOnState_of_set hflag]
    exact State.Inv.setFreqs (h.with_sequence ..) ..
  · rwa [noteOnState_of_clear hflag]

end

theorem State.Inv.frames {s : State} (h : s.Inv) (note bend : BitVec 8) (n : Nat) :
    (frames Config.chip note (oscInc Config.chip note bend) n s).Inv := by
  induction n generalizing s with
  | zero => exact h
  | succ n ih => exact ih (h.frame note bend)

theorem State.Inv.execState {s : State} (h : s.Inv) (i : Instr) : (execState i s).Inv := by
  cases i with
  | nop => exact h
  | init plat api =>
    rw [Machine.execState, initState_eq_reset]
    exact inv_reset.with_sequence ..
  | render n note bend lfo => exact h.frames note bend n.toNat
  | noteOn note bend => exact h.noteOnState
  | noteOff note bend => exact h
  | setRandvowel value =>
    obtain ⟨hcoefs0, hcoefs1, hlow, hhigh, hgain, hphase, hout⟩ := h
    exact ⟨hcoefs0, hcoefs1, hlow, hhigh, hgain, hphase, hout⟩
  | setShape value => exact h.setFreqs ..
  | setResonance value => exact h.resonanceState value
  | setpIgnored index value => exact h
  | reserved op imm28 => exact h

/-- Settles O42: a step runs a command, which keeps the invariant, or holds the state. -/
theorem stepKeepsInvariant : Obligations.StepKeepsInvariant := by
  unfold Obligations.StepKeepsInvariant
  intro s t h hstep
  cases hcmds : s.cmds with
  | nil =>
    rw [step_of_nil hcmds, Host.Outcome.next.injEq] at hstep
    exact hstep ▸ h
  | cons c rest =>
    rw [step_of_cons hcmds, exec_eq_next_iff] at hstep
    exact hstep ▸ (h.with_sequence rest _ _ _).execState (decode c)

/-- Settles O43: the reset values meet the invariant register by register. -/
theorem resetMeetsInvariant : Obligations.ResetMeetsInvariant := by
  unfold Obligations.ResetMeetsInvariant
  exact inv_reset

end Sys2Proof.Machine
end

section
/-! SUPPORT. The parameter and note commands of spec/43_controller.md and INIT of spec/45_lifecycle.md: what RETUNE writes (R59), the ends of the parameter ranges (R70, R71), and each command's state. -/

namespace Sys2Proof.Machine

open Sys2Proof.Claims

/-! ### RETUNE, as the statements name what it writes (R59) -/

/-- RETUNE changes coefficients and the coefficient counter only. -/
theorem retune_eq_withCoefs (c : Config) (s : State) :
    retune c s = withCoefs { s with coefCount := (retune c s).coefCount }
      (retune c s).bq0.coefs (retune c s).bq1.coefs := by
  rw [withCoefs, ← retune_bq0_z1 c s, ← retune_bq0_z2 c s, ← retune_bq1_z1 c s, ← retune_bq1_z2 c s]
  rfl

/-- RETUNE fits the coefficients to F and Q, without a draw where SETCOEF's precondition holds. -/
theorem tuned_retune {s u : State} (h : u.coefCount = s.coefCount) :
    Tuned s (retune Config.chip u) :=
  ⟨retune_coefs0 (s := u), retune_coefs1 (s := u),
    fun h0 h1 => by rw [retune_of_pre (s := u) h0 h1]; exact h⟩

/-! ### The words of the commands -/

theorem decode_of_setParam_word {c : Command} {v : Word} (hv : opField v = 5#4)
    (h : c.cmd &&& 0xF0FF0000#32 = v) :
    decode c = decodeSetParam c.cmd ∧ indexField c.cmd = indexField v := by
  have hop : opField c.cmd = opField v := opField_eq_of_and_eq (by decide) h
  exact ⟨decode_of_op_five (by rw [hop, hv]; rfl), indexField_eq_of_and_eq (by decide) h⟩

/-! ### SET_SHAPE (R70) -/

theorem floorInt_shapeIdf_nonneg (v : BitVec 16) : 0 ≤ floorInt (shapeIdf v) := by
  obtain ⟨hfin, hlow, -⟩ := shapeIdf_within v
  rw [floorInt_eq_floor hfin]
  exact Int.floor_nonneg.mpr (by simpa using hlow)

/-- The row of the model is the pseudocode's idx, which is never negative. -/
theorem coe_shapeIdx (v : BitVec 16) : ((shapeIdx v).val : ℤ) = min (floorInt (shapeIdf v)) 3 := by
  have hpos := floorInt_shapeIdf_nonneg v
  show ((min (floorInt (shapeIdf v)).toNat 3 : ℕ) : ℤ) = _
  omega

/-- Settles O19: OP 5 with INDEX 1 is SET_SHAPE, whose state is F by the pseudocode and a RETUNE. -/
theorem setShapeInterpolatesAndRetunes : Obligations.SetShapeInterpolatesAndRetunes := by
  unfold Obligations.SetShapeInterpolatesAndRetunes
  refine ⟨fun c hcmd => ?_, fun v s => ?_⟩
  · obtain ⟨hdec, hindex⟩ := decode_of_setParam_word (by decide) hcmd
    exact hdec.trans (decodeSetParam_of_index_one (by rw [hindex]; decide))
  · intro sv idf idx off w0
    have hidx : ((shapeIdx v).val : ℤ) = idx := coe_shapeIdx v
    have hfreq (i : Fin 2) : shapeFreq Config.chip v i =
        fadd (fmul w0 (Config.chip.preset (shapeIdx v).castSucc i))
          (fmul off (Config.chip.preset (shapeIdx v).succ i)) := by
      rw [shapeFreq, shapeW0, shapeOff, hidx]
      rfl
    exact ⟨shapeIdx v, _, hidx, exec_eq_next _ s, hfreq 0, hfreq 1, tuned_retune rfl,
      retune_eq_withCoefs ..⟩

theorem romRead_pos {c : Config} (hc : c.Admitted) (k : Fin 5) (i : Fin 2) :
    0 < value (romRead c k i) := by
  obtain ⟨hpos, -⟩ := Bool.and_eq_true_iff.mp (hc.preset k i)
  rw [← value_F_ZERO]
  exact (flt_iff_value_lt (by decide) (romRead_within hc k i).finite).mp hpos

/-- With the weights 1 and 0 the lower entry comes out bit for bit. -/
theorem interpolate_lower {p p' : F32} (hp : isFinite p = true) (hp' : isFinite p' = true)
    (h0 : value p ≠ 0) : fadd (fmul F_ONE p) (fmul F_ZERO p') = p := by
  obtain ⟨hl, hlval⟩ := fmul_exact (x := F_ONE) (by decide) hp hp (by simp)
  obtain ⟨hu, huval⟩ := fmul_exact (x := F_ZERO) (z := F_ZERO) (by decide) hp' (by decide) (by simp)
  obtain ⟨hsum, hval⟩ := fadd_exact hl hu hp (by rw [hlval, huval, value_F_ZERO, add_zero])
  exact eq_of_value_eq hsum hp hval h0

/-- With the weights 0 and 1 the upper entry comes out bit for bit. -/
theorem interpolate_upper {p p' : F32} (hp : isFinite p = true) (hp' : isFinite p' = true)
    (h0 : value p' ≠ 0) : fadd (fmul F_ZERO p) (fmul F_ONE p') = p' := by
  obtain ⟨hl, hlval⟩ := fmul_exact (x := F_ZERO) (z := F_ZERO) (by decide) hp (by decide) (by simp)
  obtain ⟨hu, huval⟩ := fmul_exact (x := F_ONE) (by decide) hp' hp' (by simp)
  obtain ⟨hsum, hval⟩ := fadd_exact hl hu hp' (by rw [hlval, huval, value_F_ZERO, zero_add])
  exact eq_of_value_eq hsum hp' hval h0

/-- VALUE 0 is preset row 0 (R70). -/
theorem shapeFreq_zero {c : Config} (hc : c.Admitted) (i : Fin 2) :
    shapeFreq c 0#16 i = c.preset 0 i := by
  have hidx : shapeIdx 0#16 = 0 := by decide
  have hoff : shapeOff 0#16 = F_ZERO := by decide
  have hw0 : shapeW0 0#16 = F_ONE := by decide
  rw [shapeFreq, hw0, hoff, hidx]
  exact interpolate_lower (romRead_within hc _ i).finite (romRead_within hc _ i).finite
    (romRead_pos hc _ i).ne'

theorem shapeIdf_of_paramMax_le {v : BitVec 16} (h : 1023 ≤ v.toNat) : shapeIdf v = F_FOUR := by
  rw [shapeIdf, pval_eq_of_paramMax_le h]
  decide

theorem shapeIdx_of_paramMax_le {v : BitVec 16} (h : 1023 ≤ v.toNat) : shapeIdx v = 3 := by
  have hfloor : floorInt F_FOUR = 4 := by decide
  simp only [shapeIdx, shapeIdf_of_paramMax_le h, hfloor]
  rfl

/-- Every VALUE from 1023 on is preset row 4: idx is clamped to 3 and the weight above is 1 (R70). -/
theorem shapeFreq_of_paramMax_le {c : Config} (hc : c.Admitted) {v : BitVec 16}
    (h : 1023 ≤ v.toNat) (i : Fin 2) : shapeFreq c v i = c.preset 4 i := by
  have hidx := shapeIdx_of_paramMax_le h
  have hoff : shapeOff v = F_ONE := by
    rw [shapeOff, shapeIdf_of_paramMax_le h, hidx]
    decide
  have hw0 : shapeW0 v = F_ZERO := by
    rw [shapeW0, hoff]
    decide
  rw [shapeFreq, hw0, hoff, hidx]
  exact interpolate_upper (romRead_within hc _ i).finite (romRead_within hc _ i).finite
    (romRead_pos hc _ i).ne'

/-- Settles O20: at both ends one weight is 1 and the other 0. -/
theorem shapeEndsAreExactPresets : Obligations.ShapeEndsAreExactPresets := by
  unfold Obligations.ShapeEndsAreExactPresets
  refine fun v s => ⟨fun h => ⟨_, exec_eq_next _ s, ?_⟩, fun h => ⟨_, exec_eq_next _ s, ?_⟩⟩
  · obtain rfl : v = 0#16 := BitVec.eq_of_toNat_eq h
    exact ⟨shapeFreq_zero Config.chip_admitted 0, shapeFreq_zero Config.chip_admitted 1⟩
  · exact ⟨shapeFreq_of_paramMax_le Config.chip_admitted h 0,
      shapeFreq_of_paramMax_le Config.chip_admitted h 1⟩

/-! ### SET_RESONANCE (R71) -/

/-- Settles O21: OP 5 with INDEX 2 is SET_RESONANCE, whose state is Q and G by the pseudocode and a RETUNE. -/
theorem setResonanceSetsQAndGain : Obligations.SetResonanceSetsQAndGain := by
  unfold Obligations.SetResonanceSetsQAndGain
  refine ⟨fun c hcmd => ?_, fun v s => ?_⟩
  · obtain ⟨hdec, hindex⟩ := decode_of_setParam_word (by decide) hcmd
    exact hdec.trans (decodeSetParam_of_index_two (by rw [hindex]; decide))
  · have hq := resonanceQ_within_range v
    exact ⟨_, exec_eq_next _ s, rfl, rfl, hq.fle_low (by decide), hq.fle_high (by decide),
      tuned_retune rfl, retune_eq_withCoefs ..⟩

theorem resonanceQ_of_paramMax_le {v : BitVec 16} (h : 1023 ≤ v.toNat) : resonanceQ v = Q_MAX := by
  rw [resonanceQ, pval_eq_of_paramMax_le h]
  decide

theorem resonanceQ_zero : resonanceQ 0#16 = SQRT2 := by decide

theorem gainOf_SQRT2 : gainOf SQRT2 = F_ONE := by decide

/-- Settles O22: PVAL is 0 and 1 at the ends, where Q and G are computed. -/
theorem resonanceEndsAreExact : Obligations.ResonanceEndsAreExact := by
  unfold Obligations.ResonanceEndsAreExact
  refine fun v s => ⟨fun h => ⟨_, exec_eq_next _ s, ?_⟩, fun h => ⟨_, exec_eq_next _ s, ?_⟩⟩
  · obtain rfl : v = 0#16 := BitVec.eq_of_toNat_eq h
    exact ⟨resonanceQ_zero, (congrArg gainOf resonanceQ_zero).trans gainOf_SQRT2⟩
  · have hq := resonanceQ_of_paramMax_le h
    exact ⟨hq, (congrArg gainOf hq).trans gainNeverAttenuates.2.2⟩

/-- SETCOEF's precondition on Q holds for every resonance (R51, R71). -/
theorem setCoefPre_resonanceQ {w : F32} (h : inOpenPi w = true) (v : BitVec 16) :
    setCoefPre w (resonanceQ v) = true := by
  obtain ⟨hfin, hlow, -⟩ := resonanceQ_within v
  rw [value_SQRT2] at hlow
  rw [setCoefPre, h, Bool.true_and, flt_iff_value_lt (by decide) hfin, value_F_ZERO]
  linarith

section
variable {s : State} (h0 : inOpenPi s.f0 = true) (h1 : inOpenPi s.f1 = true) (v : BitVec 16)
include h0 h1

theorem resonanceState_of_inOpenPi (c : Config) :
    resonanceState c v s = { s with
      q := resonanceQ v
      g := gainOf (resonanceQ v)
      bq0 := ⟨bandpass c s.f0 (resonanceQ v), s.bq0.z1, s.bq0.z2⟩
      bq1 := ⟨bandpass c s.f1 (resonanceQ v), s.bq1.z1, s.bq1.z2⟩ } := by
  rw [resonanceState, retune_of_pre (setCoefPre_resonanceQ h0 v) (setCoefPre_resonanceQ h1 v)]

end

/-- Settles O25: with F in range RETUNE is within SETCOEF's precondition, and the formulas are R51's. -/
theorem retuneWritesBandpassDesign : Obligations.RetuneWritesBandpassDesign := by
  unfold Obligations.RetuneWritesBandpassDesign
  intro v s h0 h1
  refine ⟨_, exec_eq_next _ s, ?_⟩
  rw [execState, resonanceState_of_inOpenPi h0 h1]
  exact ⟨rfl, rfl⟩

/-- Settles O26: the second command finds F, Q and the delays as the first left them. -/
theorem repeatedResonanceIsIdempotent : Obligations.RepeatedResonanceIsIdempotent := by
  unfold Obligations.RepeatedResonanceIsIdempotent
  intro v s h0 h1
  refine ⟨_, exec_eq_next _ s, ?_⟩
  rw [execState, resonanceState_of_inOpenPi h0 h1]
  exact ⟨exec_eq_next_iff.mpr (resonanceState_of_inOpenPi (s := { s with .. }) h0 h1 v _),
    rfl, rfl, rfl, rfl⟩

/-! ### NOTE_ON (R73) -/

/-- Settles O24: OP 3 is NOTE_ON, whose state is the one before with the flag clear and a drawn preset with a RETUNE with it set. -/
theorem noteOnDrawsVowelOnlyWithFlag : Obligations.NoteOnDrawsVowelOnlyWithFlag := by
  unfold Obligations.NoteOnDrawsVowelOnlyWithFlag
  refine ⟨fun c hcmd => decode_of_op_three ?_,
    fun note bend s => ⟨fun hflag => ?_, fun hflag => ?_⟩⟩
  · rw [opField_eq_of_and_eq (by decide) hcmd]
    decide
  · rw [exec_eq_next, execState, noteOnState_of_clear hflag]
  · refine ⟨Config.chip.vowel s.vowelCount, _, exec_eq_next _ s, ?_⟩
    have hpre (hq : flt F_ZERO s.q = true) (k : Fin 5) (i : Fin 2) :
        setCoefPre (romRead Config.chip k i) s.q = true :=
      Bool.and_eq_true_iff.mpr ⟨Config.chip_admitted.preset k i, hq⟩
    rw [execState, noteOnState_of_set hflag]
    exact ⟨rfl, rfl, tuned_retune rfl,
      fun hq => ⟨retune_coefs0 (hpre hq _ 0), retune_coefs1 (hpre hq _ 1)⟩,
      retune_eq_withCoefs ..⟩

/-! ### INIT (R85) -/

/-- Settles O32: OP 1 is INIT, which leaves the reset state. -/
theorem initLeavesResetState : Obligations.InitLeavesResetState := by
  unfold Obligations.InitLeavesResetState
  refine ⟨fun c hcmd => decode_of_op_one ?_, fun plat api s => ?_⟩
  · rw [opField_eq_of_and_eq (by decide) hcmd]
    decide
  · rw [exec_eq_next, execState, initState_eq_reset]

/-- SET_SHAPE 0 leaves F and the coefficients of preset row 0 while Q is positive. -/
theorem shapeState_zero {s : State} (hq : flt F_ZERO s.q = true) :
    shapeState Config.chip 0#16 s = { s with
      f0 := romRead Config.chip 0 0
      f1 := romRead Config.chip 0 1
      bq0 := ⟨bandpass Config.chip (romRead Config.chip 0 0) s.q, s.bq0.z1, s.bq0.z2⟩
      bq1 := ⟨bandpass Config.chip (romRead Config.chip 0 1) s.q, s.bq1.z1, s.bq1.z2⟩ } := by
  have hpre (i : Fin 2) : setCoefPre (romRead Config.chip 0 i) s.q = true :=
    Bool.and_eq_true_iff.mpr ⟨Config.chip_admitted.preset 0 i, hq⟩
  rw [shapeState, shapeFreq_zero Config.chip_admitted, shapeFreq_zero Config.chip_admitted,
    setFreqs_eq]
  exact retune_of_pre (hpre 0) (hpre 1) _

/-- Settles O33: the three commands leave the reset values of F, Q, G, RAND_FLAG and the coefficients, and INIT the reset state. -/
theorem initEqualsZeroParameters : Obligations.InitEqualsZeroParameters := by
  unfold Obligations.InitEqualsZeroParameters
  intro plat api s hq
  refine ⟨_, _, _, exec_eq_next _ s, exec_eq_next _ _, exec_eq_next _ _, ?_⟩
  have hpreset := Config.chip_admitted.preset 0
  rw [exec_eq_next, execState, initState_eq_reset, execState, execState, execState,
    shapeState_zero (s := randVowelState 0#16 s) hq, resonanceState_of_inOpenPi, resonanceQ_zero,
    gainOf_SQRT2]
  · rfl
  · exact hpreset 0
  · exact hpreset 1

end Sys2Proof.Machine
end

section
/-! SUPPORT. The interpolation of spec/43_controller.md in binary32 (R70, R75; spec/10_state.md R28 (e)): the weights to within 2 ^ -20, from which F stays positive, and stays between presets that are far enough apart; presets at the top of the range, where it passes them. -/

namespace Sys2Proof

/-- A configuration with its preset table replaced. -/
def Config.withPreset (c : Config) (f : Fin 5 → Fin 2 → F32) : Config := { c with preset := f }

theorem Config.withPreset_admitted {c : Config} (h : c.Admitted) {f : Fin 5 → Fin 2 → F32}
    (hf : ∀ k i, Machine.inOpenPi (f k i) = true) : (c.withPreset f).Admitted :=
  ⟨hf, h.blsaw, h.pitchInc, h.noise⟩

end Sys2Proof

namespace Sys2Proof.Machine

open Sys2Proof.Claims

/-! ### Presets at the top of the range -/

/-- The machine's configuration with every preset the largest binary32 below π. -/
def flatConfig : Config := Config.chip.withPreset fun _ _ => BELOW_PI

theorem flatConfig_admitted : flatConfig.Admitted :=
  Config.withPreset_admitted Config.chip_admitted fun _ _ => by decide

/-- At VALUE 4 the two rounded products add up to a step more than the preset they share. -/
theorem shapeFreq_flatConfig : shapeFreq flatConfig 4#16 0 = 0x40490FDB#32 := by decide

/-- Refutes O27: presets that are all 0x40490FDA give 0x40490FDB at VALUE 4. -/
theorem not_noOvershootForEveryTable : ¬ Obligations.NoOvershootForEveryTable := by
  unfold Obligations.NoOvershootForEveryTable
  intro h
  obtain ⟨-, hle⟩ := h flatConfig flatConfig_admitted 4#16 0
  rw [shapeFreq_flatConfig] at hle
  exact absurd hle (show ¬ fkey 0x40490FDB#32 ≤ max (fkey BELOW_PI) (fkey BELOW_PI) by decide)

/-- Refutes O29 with the same table and VALUE: 0x40490FDB is above π. -/
theorem not_interpolationStaysBelowPi : ¬ Obligations.InterpolationStaysBelowPi := by
  unfold Obligations.InterpolationStaysBelowPi
  intro h
  have hle := h flatConfig flatConfig_admitted 4#16 0
  rw [shapeFreq_flatConfig] at hle
  exact absurd hle (by decide)

/-! ### The weights (R70) -/

@[simp] theorem value_F_HALF : value F_HALF = 1 / 2 := by
  have h : sunits F_HALF = 2 ^ 148 := by decide
  norm_num [value, h]

/-- The numerator over 1023 of the exact weight of the upper row: 4 VALUE / 1023 - idx. -/
def offNumerator (v : BitVec 16) : ℤ := 4 * (min v.toNat 1023 : ℕ) - 1023 * (shapeIdx v).val

theorem shapeIdf_sub_idx (v : BitVec 16) : 0 ≤ value (shapeIdf v) - (shapeIdx v).val ∧
    value (shapeIdf v) - (shapeIdx v).val ≤ 1 := by
  obtain ⟨hfin, hlow, hhigh⟩ := shapeIdf_within v
  rw [value_F_FOUR] at hhigh
  have hidx := coe_shapeIdx v
  rw [floorInt_eq_floor hfin] at hidx
  have hcast : ((shapeIdx v).val : ℚ) = ((min ⌊value (shapeIdf v)⌋ 3 : ℤ) : ℚ) := by
    rw [← hidx, Int.cast_natCast]
  rw [hcast]
  have hfloor := Int.floor_le (value (shapeIdf v))
  have hlt := Int.lt_floor_add_one (value (shapeIdf v))
  rcases le_total ⌊value (shapeIdf v)⌋ 3 with h | h
  · rw [min_eq_left h]
    constructor <;> linarith
  · have h3 : (3 : ℚ) ≤ ⌊value (shapeIdf v)⌋ := by exact_mod_cast h
    rw [min_eq_right h]
    push_cast
    constructor <;> linarith

theorem value_rowIndex (k : Fin 4) :
    isFinite (f32OfInt k.val) = true ∧ value (f32OfInt k.val) = k.val := by
  obtain ⟨hfin, hval⟩ := f32OfInt_exact (n := k.val) (by omega)
  exact ⟨hfin, by rw [hval, Int.cast_natCast]⟩

theorem shapeOff_within_unit (v : BitVec 16) : Within F_ZERO F_ONE (shapeOff v) := by
  obtain ⟨hk, hkval⟩ := value_rowIndex (shapeIdx v)
  obtain ⟨hlow, hhigh⟩ := shapeIdf_sub_idx v
  apply fsub_within (by decide) (by decide) (shapeIdf_within v).finite hk <;> simp [hkval] <;>
    linarith

theorem shapeW0_within_unit (v : BitVec 16) : Within F_ZERO F_ONE (shapeW0 v) := by
  obtain ⟨hfin, hlow, hhigh⟩ := shapeOff_within_unit v
  rw [value_F_ZERO] at hlow
  rw [value_F_ONE] at hhigh
  apply fsub_within (by decide) (by decide) (by decide) hfin <;> simp <;> linarith

/-- PVAL, the position and the weight are rounded once each, by at most 2 ^ -24, 2 ^ -22 and 2 ^ -24. -/
theorem abs_shapeOff_sub_le (v : BitVec 16) :
    |offNumerator v / 1023 - value (shapeOff v)| ≤ 1 / 2 ^ 20 := by
  obtain ⟨hpfin, hplow, hphigh⟩ := pval_within v
  obtain ⟨hkfin, hkval⟩ := value_rowIndex (shapeIdx v)
  obtain ⟨hlow, hhigh⟩ := shapeIdf_sub_idx v
  rw [value_F_ZERO] at hplow
  rw [value_F_ONE] at hphigh
  have hn : ((min v.toNat 1023 : ℕ) : ℚ) ≤ 1023 := by exact_mod_cast Nat.min_le_right ..
  have hpval := (parameterValueIsNearestFraction.1 v).abs_sub_le (m := 23) (by decide) (by
    rw [abs_of_nonneg (by positivity)]
    linarith)
  have hidf := (fmul_roundsTo hpfin (y := F_FOUR) (by decide)).abs_sub_le (m := 21) (by decide) (by
    rw [value_F_FOUR, abs_of_nonneg (by linarith)]
    linarith)
  have hoff := (fsub_roundsTo (shapeIdf_within v).finite hkfin).abs_sub_le (m := 23) (by decide) (by
    rw [hkval, abs_of_nonneg hlow]
    linarith)
  have hexact : (offNumerator v : ℚ) / 1023 =
      4 * ((min v.toNat 1023 : ℕ) / 1023) - (shapeIdx v).val := by
    rw [offNumerator]
    push_cast
    ring
  rw [hkval, ← shapeOff] at hoff
  rw [value_F_FOUR, ← shapeIdf] at hidf
  obtain ⟨hpl, hph⟩ := abs_le.mp hpval
  obtain ⟨hil, hih⟩ := abs_le.mp hidf
  obtain ⟨hol, hoh⟩ := abs_le.mp hoff
  rw [hexact, abs_le]
  constructor <;> linarith only [hpl, hph, hil, hih, hol, hoh]

theorem abs_shapeW0_sub_le (v : BitVec 16) :
    |1 - value (shapeOff v) - value (shapeW0 v)| ≤ 1 / 2 ^ 24 := by
  obtain ⟨hfin, hlow, hhigh⟩ := shapeOff_within_unit v
  rw [value_F_ZERO] at hlow
  rw [value_F_ONE] at hhigh
  have hw0 := (fsub_roundsTo (x := F_ONE) (by decide) hfin).abs_sub_le (m := 23) (by decide) (by
    rw [value_F_ONE, abs_of_nonneg (by linarith)]
    linarith)
  rwa [value_F_ONE] at hw0

/-- The exact weight is a fraction of 1023 from 0 to 1. -/
theorem offNumerator_mem (v : BitVec 16) : 0 ≤ offNumerator v ∧ offNumerator v ≤ 1023 := by
  obtain ⟨-, hlow, hhigh⟩ := shapeOff_within_unit v
  rw [value_F_ZERO] at hlow
  rw [value_F_ONE] at hhigh
  obtain ⟨hl, hh⟩ := abs_le.mp (abs_shapeOff_sub_le v)
  have hnum_low : -1 < offNumerator v := by
    exact_mod_cast (by linarith : (-1 : ℚ) < offNumerator v)
  have hnum_high : offNumerator v < 1024 := by
    exact_mod_cast (by linarith : (offNumerator v : ℚ) < 1024)
  omega

/-! ### F stays positive (R28 (e)) -/

/-- More than half of a positive number does not round to 0. -/
theorem fmul_pos_of_half_lt {w p : F32} (hw : Within F_ZERO F_ONE w) (hhalf : 1 / 2 < value w)
    (hp : Within F_ZERO F_FOUR p) (hpos : 0 < value p) : 0 < value (fmul w p) := by
  obtain ⟨hwfin, -, hwhigh⟩ := hw
  obtain ⟨hpfin, -, hphigh⟩ := hp
  rw [value_F_ONE] at hwhigh
  rw [value_F_FOUR] at hphigh
  have hleast : value 1#32 = 1 / 2 ^ 149 := by
    have h : sunits 1#32 = 1 := by decide
    norm_num [value, h]
  have hp1 : 1 / 2 ^ 149 ≤ value p := by
    rw [← value_F_ZERO, ← not_le, value_le_value_iff hpfin (by decide)] at hpos
    rw [← hleast, value_le_value_iff (by decide) hpfin]
    have hkeys : fkey F_ZERO = 0 ∧ fkey 1#32 = 1 := by decide
    omega
  have hprod : 1 / 2 ^ 150 < value w * value p := by
    calc (1 : ℚ) / 2 ^ 150 = 1 / 2 * (1 / 2 ^ 149) := by norm_num
      _ < value w * value p := by nlinarith
  have hbound : |value w * value p| < overflowBound := by
    rw [abs_of_pos (by positivity), overflowBound]
    nlinarith
  have hnear := ((fmul_roundsTo hwfin hpfin).isNearest hbound).nearest 1#32 (by decide)
  by_contra! hle
  rw [hleast, abs_of_nonneg (by linarith [show (0:ℚ) < 1 / 2 ^ 150 by positivity])] at hnear
  rcases abs_cases (value w * value p - 1 / 2 ^ 149) with ⟨habs, -⟩ | ⟨habs, -⟩ <;> linarith

/-- 1023 is odd, so no VALUE is halfway between two rows: one of the weights is above 1 / 2. -/
theorem half_lt_weight (v : BitVec 16) :
    1 / 2 < value (shapeW0 v) ∨ 1 / 2 < value (shapeOff v) := by
  obtain ⟨hl, hh⟩ := abs_le.mp (abs_shapeOff_sub_le v)
  obtain ⟨hwl, hwh⟩ := abs_le.mp (abs_shapeW0_sub_le v)
  have hodd : offNumerator v ≤ 511 ∨ 512 ≤ offNumerator v := by omega
  rcases hodd with h | h
  · left
    have hcast : (offNumerator v : ℚ) ≤ 511 := by exact_mod_cast h
    linarith
  · right
    have hcast : (512 : ℚ) ≤ offNumerator v := by exact_mod_cast h
    linarith

/-- A weight in [0, 1] times a preset. -/
theorem fmul_weight_within {w p : F32} (hw : Within F_ZERO F_ONE w) (hp : Within F_ZERO F_FOUR p) :
    Within F_ZERO F_FOUR (fmul w p) := by
  obtain ⟨hwfin, hwlow, hwhigh⟩ := hw
  obtain ⟨hpfin, hplow, hphigh⟩ := hp
  rw [value_F_ZERO] at hwlow hplow
  rw [value_F_ONE] at hwhigh
  rw [value_F_FOUR] at hphigh
  apply fmul_within (by decide) (by decide) hwfin hpfin <;> simp <;> nlinarith

/-- A sum of two such products is no less than either. -/
theorem fadd_pos {a b : F32} (ha : Within F_ZERO F_FOUR a) (hb : Within F_ZERO F_FOUR b)
    (hpos : 0 < value a ∨ 0 < value b) : isFinite (fadd a b) = true ∧ 0 < value (fadd a b) := by
  obtain ⟨hafin, halow, hahigh⟩ := ha
  obtain ⟨hbfin, hblow, hbhigh⟩ := hb
  rw [value_F_ZERO] at halow hblow
  rw [value_F_FOUR] at hahigh hbhigh
  rcases hpos with hpos | hpos
  · have hsum : Within a F_EIGHT (fadd a b) :=
      fadd_within hafin (by decide) hafin hbfin (by linarith) (by rw [value_F_EIGHT]; linarith)
    exact ⟨hsum.finite, hpos.trans_le hsum.low⟩
  · have hsum : Within b F_EIGHT (fadd a b) :=
      fadd_within hbfin (by decide) hafin hbfin (by linarith) (by rw [value_F_EIGHT]; linarith)
    exact ⟨hsum.finite, hpos.trans_le hsum.low⟩

/-- Settles O30: one weight is above 1 / 2, so its product with a positive preset does not round to 0. -/
theorem interpolationStaysPositive : Obligations.InterpolationStaysPositive := by
  unfold Obligations.InterpolationStaysPositive
  intro c hc v i
  have hlower := romRead_within hc (shapeIdx v).castSucc i
  have hupper := romRead_within hc (shapeIdx v).succ i
  have hw0 := shapeW0_within_unit v
  have hoff := shapeOff_within_unit v
  obtain ⟨hfin, hpos⟩ := fadd_pos (fmul_weight_within hw0 hlower) (fmul_weight_within hoff hupper)
    ((half_lt_weight v).imp (fun h => fmul_pos_of_half_lt hw0 h hlower (romRead_pos hc _ i))
      fun h => fmul_pos_of_half_lt hoff h hupper (romRead_pos hc _ i))
  exact (flt_iff_value_lt (by decide) hfin).mpr (value_F_ZERO ▸ hpos)

/-! ### F between presets that are apart (R75) -/

/-- The margin of a weighted mean to its ends, where the weight of b is not at an end and a and b are apart. -/
theorem weighted_mean_margin {a b w o : ℚ} (ha : 0 ≤ a) (ha' : a ≤ 1 / 2) (hb : 0 ≤ b)
    (hb' : b ≤ 1 / 2) (hapart : 1 / 2 ^ 10 ≤ |b - a|) (hlow : 1 / 2 ^ 11 ≤ o) (hhigh : o ≤ 1 - 1 / 2 ^ 11)
    (hw : |1 - o - w| ≤ 1 / 2 ^ 24) :
    min a b + 1 / 2 ^ 24 ≤ w * a + o * b ∧ w * a + o * b ≤ max a b - 1 / 2 ^ 24 := by
  obtain ⟨hwl, hwh⟩ := abs_le.mp hw
  rcases le_total a b with h | h
  · rw [abs_of_nonneg (by linarith)] at hapart
    rw [min_eq_left h, max_eq_right h]
    constructor <;> nlinarith
  · rw [abs_of_nonpos (by linarith)] at hapart
    rw [min_eq_right h, max_eq_left h]
    constructor <;> nlinarith

/-- Between the ends of the parameter range the weight of the upper row is away from 0 and 1. -/
theorem shapeOff_interior {v : BitVec 16} (h0 : 0 < v.toNat) (h1 : v.toNat < 1023) :
    1 / 2 ^ 11 ≤ value (shapeOff v) ∧ value (shapeOff v) ≤ 1 - 1 / 2 ^ 11 := by
  obtain ⟨hl, hh⟩ := abs_le.mp (abs_shapeOff_sub_le v)
  obtain ⟨hlow, hhigh⟩ := offNumerator_mem v
  have hidx := (shapeIdx v).isLt
  have hinterior : 1 ≤ offNumerator v ∧ offNumerator v ≤ 1022 := by
    unfold offNumerator at *
    omega
  have hlow' : (1 : ℚ) ≤ offNumerator v := by exact_mod_cast hinterior.1
  have hhigh' : (offNumerator v : ℚ) ≤ 1022 := by exact_mod_cast hinterior.2
  constructor <;> linarith

/-- A product of numbers of at most 1 and 1 / 2 is off by at most 2 ^ -25. -/
theorem abs_fmul_weight_sub_le {w p : F32} (hw : Within F_ZERO F_ONE w)
    (hp : Within F_ZERO F_HALF p) :
    |value w * value p - value (fmul w p)| ≤ 1 / 2 ^ 25 := by
  obtain ⟨hwfin, hwlow, hwhigh⟩ := hw
  obtain ⟨hpfin, hplow, hphigh⟩ := hp
  rw [value_F_ZERO] at hwlow hplow
  rw [value_F_ONE] at hwhigh
  rw [value_F_HALF] at hphigh
  refine (fmul_roundsTo hwfin hpfin).abs_sub_le (m := 24) (by decide) ?_
  rw [abs_of_nonneg (by positivity)]
  nlinarith

theorem Within.fkey_mem {a b x : F32} (ha : isFinite a = true) (hb : isFinite b = true)
    (h : Within a b x) : fkey a ≤ fkey x ∧ fkey x ≤ fkey b := by
  obtain ⟨hx, hlow, hhigh⟩ := h
  exact ⟨(value_le_value_iff ha hx).mp hlow, (value_le_value_iff hx hb).mp hhigh⟩

/-- Rounding off by 2 ^ -24 stays within the margin of presets that are 2 ^ -10 apart. -/
theorem noOvershoot_of_apart {c : Config} {v : BitVec 16} {i : Fin 2} (h0 : 0 < v.toNat)
    (h1 : v.toNat < 1023) (hpreset : ∀ k, Within F_ZERO F_HALF (c.preset k i))
    (hapart : 1 / 2 ^ 10 ≤
      |value (c.preset (shapeIdx v).succ i) - value (c.preset (shapeIdx v).castSucc i)|) :
    NoOvershoot c v i := by
  have hlower := hpreset (shapeIdx v).castSucc
  have hupper := hpreset (shapeIdx v).succ
  have hw0 := shapeW0_within_unit v
  have hoff := shapeOff_within_unit v
  have hfour {p : F32} (hp : Within F_ZERO F_HALF p) : Within F_ZERO F_FOUR p :=
    hp.mono le_rfl (by norm_num)
  obtain ⟨hlow, hhigh⟩ := shapeOff_interior h0 h1
  obtain ⟨hmin, hmax⟩ := weighted_mean_margin (value_F_ZERO ▸ hlower.low)
    (value_F_HALF ▸ hlower.high) (value_F_ZERO ▸ hupper.low) (value_F_HALF ▸ hupper.high) hapart
    hlow hhigh (abs_shapeW0_sub_le v)
  obtain ⟨hll, hlh⟩ := abs_le.mp (abs_fmul_weight_sub_le hw0 hlower)
  obtain ⟨hul, huh⟩ := abs_le.mp (abs_fmul_weight_sub_le hoff hupper)
  have hlfin := (fmul_weight_within hw0 (hfour hlower)).finite
  have hufin := (fmul_weight_within hoff (hfour hupper)).finite
  rcases le_total (value (c.preset (shapeIdx v).castSucc i)) (value (c.preset (shapeIdx v).succ i))
    with hle | hle
  · rw [min_eq_left hle] at hmin
    rw [max_eq_right hle] at hmax
    have hsum := fadd_within hlower.finite hupper.finite hlfin hufin (by linarith) (by linarith)
    obtain ⟨hl, hh⟩ := hsum.fkey_mem hlower.finite hupper.finite
    exact ⟨min_le_of_left_le hl, le_max_of_le_right hh⟩
  · rw [min_eq_right hle] at hmin
    rw [max_eq_left hle] at hmax
    have hsum := fadd_within hupper.finite hlower.finite hlfin hufin (by linarith) (by linarith)
    obtain ⟨hl, hh⟩ := hsum.fkey_mem hupper.finite hlower.finite
    exact ⟨min_le_of_right_le hl, le_max_of_le_left hh⟩

/-! ### The test table (R75, SRC-8) -/

theorem presetT1_inOpenPi : ∀ k i, inOpenPi (presetT1 k i) = true := by decide

theorem presetT1_within (k : Fin 5) (i : Fin 2) : Within F_ZERO F_HALF (presetT1 k i) := by
  have hle : ∀ k i, fle F_ZERO (presetT1 k i) = true ∧ fle (presetT1 k i) F_HALF = true := by decide
  exact within_of_fle (by decide) (by decide) (hle k i).1 (hle k i).2

theorem presetT1_apart (k : Fin 4) (i : Fin 2) :
    1 / 2 ^ 10 ≤ |value (presetT1 k.succ i) - value (presetT1 k.castSucc i)| := by
  have hunits : ∀ (k : Fin 4) (i : Fin 2),
      2 ^ 139 ≤ |sunits (presetT1 k.succ i) - sunits (presetT1 k.castSucc i)| := by
    decide
  have hcast : (2 ^ 139 : ℚ) ≤
      |(sunits (presetT1 k.succ i) : ℚ) - sunits (presetT1 k.castSucc i)| := by
    exact_mod_cast hunits k i
  rw [value, value, ← sub_div, abs_div, abs_of_pos (show (0 : ℚ) < 2 ^ 149 by positivity),
    le_div_iff₀ (by positivity)]
  linarith

/-- Settles O28: T1's neighbouring presets are 2 ^ -10 apart and more, and at both ends of the parameter range F is a preset. -/
theorem noOvershootForTestTable : Obligations.NoOvershootForTestTable := by
  unfold Obligations.NoOvershootForTestTable
  intro noise vowel v i
  have hc := Config.withPreset_admitted Config.chip_admitted presetT1_inOpenPi
  rcases Nat.eq_zero_or_pos v.toNat with h0 | h0
  · obtain rfl : v = 0#16 := BitVec.eq_of_toNat_eq h0
    have hF : shapeFreq (configT1 noise vowel) 0#16 i = presetT1 0 i := shapeFreq_zero hc i
    have hidx : shapeIdx 0#16 = 0 := by decide
    rw [NoOvershoot, hF, hidx]
    exact ⟨min_le_left _ _, le_max_left _ _⟩
  · rcases Nat.lt_or_ge v.toNat 1023 with h1 | h1
    · exact noOvershoot_of_apart h0 h1 (presetT1_within · i) (presetT1_apart _ i)
    · have hF : shapeFreq (configT1 noise vowel) v i = presetT1 4 i :=
        shapeFreq_of_paramMax_le hc h1 i
      rw [NoOvershoot, hF, shapeIdx_of_paramMax_le h1]
      exact ⟨min_le_right _ _, le_max_right _ _⟩

end Sys2Proof.Machine
end
